-- ==== Sys2Proof/Word.lean ====
section
/-! DEFINITION. The bit vectors of the spec: Byte, nibble and the 56-bit vector port (00_scope.md R8 to R10, 10_state.md R17). -/
namespace Sys2Proof

/-- A Byte: 8 bits, bit 0 the least significant, bit 7 the "top bit" (00_scope.md R8). -/
abbrev Byte := BitVec 8

/-- A nibble: the 4-bit field value of port `f`, or one half of a Byte (00_scope.md R8, 10_state.md R17). -/
abbrev Nibble := BitVec 4

/-- The 56 bits of a vector port: seven Bytes (10_state.md R17, R19). -/
abbrev VecBits := BitVec 56

end Sys2Proof
end

