-- ==== Sys2Proof/Config.lean ====
section
/-! DEFINITION. What one implementation fixes and what the spec leaves free: the block's two open functions and the environment's parameters (00_scope.md R7), and the free values of the environment. -/
namespace Sys2Proof

/-- What the transport answers to one call (60_exceptions.md R111). The kinds inside `failure(kind)` have no
values in the source and are only told apart by a number (log 13). -/
inductive Answer where
  | success
  | failure (kind : Nat)
  deriving DecidableEq, Repr, Inhabited

/-- `OOD_D2B` (00_scope.md R7, 40_bcd_converters.md R70): the result of D2B on an operand of 100 to 255.
A free value, a function of the operand alone (log 4). -/
opaque Config.oodD2B : Byte → Byte

/-- `OOD_B2D` (00_scope.md R7, 40_bcd_converters.md R70): the result of B2D on a Byte with a nibble above 9.
A free value, a function of the operand alone (log 4). -/
opaque Config.oodB2D : Byte → Byte

/-- The Byte a register offset of the peripheral holds before anything was written to it: the initial store is
arbitrary (10_state.md R32, 70_reset_and_hazards.md R125). A free value for each offset (log 7). -/
opaque Config.powerOnByte : Nat → Byte

/-- The peripheral's register pointer before any transport call. A free value (log 8). -/
opaque Config.pointerAtPowerOn : Nat

/-- The peripheral's register pointer after a write of `count` Bytes from `start`: whether it auto-increments on
a write is not in the source (91_not_in_source.md N15). A free value (log 8). -/
opaque Config.pointerAfterWrite (start count : Nat) : Nat

/-- The transport's answer to call number `n`, where the state lists no answer for it. A free value (log 13). -/
opaque Config.transportAnswer : Nat → Answer

/-- `T_PD`, the block's propagation delay: used by no rule (00_scope.md R7, 70_reset_and_hazards.md R131). -/
opaque Config.propagationDelay : Nat

/-- The environment's parameters (00_scope.md R7). They are arguments of the environment's functions, so that a
claim holds for every choice of them (log 19). -/
structure Params where
  /-- `ADDR_SEC`, the offset of the seconds register. -/
  addrSec : Nat
  /-- `ADDR_ST1`, the register the write-protect writes go to. -/
  addrSt1 : Nat
  /-- `ADDR_ST2`. -/
  addrSt2 : Nat
  /-- `ADDR_INT`, the interrupt/control register. -/
  addrInt : Nat
  /-- `WP_CLEAR_BYTE`, the Byte written to ST1 to clear write protection. -/
  wpClear : Byte
  /-- `WP_SET_BYTE`, the Byte written to ST1 to set write protection. -/
  wpSet : Byte
  /-- `BUF_CAP`, the size of the engine's write buffer, address Byte included. -/
  bufCap : Nat
  /-- `REPROTECT_ON_FAILURE`. -/
  reprotectOnFailure : Bool
  deriving DecidableEq, Repr

/-- How many registers the RegisterMap has: offsets 0x00 to 0x14 (20_memory.md R34). -/
def mapSize : Nat := 21

/-- `r` is one of the seven time registers `ADDR_SEC + i` (20_memory.md R35). -/
abbrev Params.inTimeBlock (p : Params) (r : Nat) : Prop := p.addrSec ≤ r ∧ r ≤ p.addrSec + 6

/-- The constraints R7 places on the environment's parameters. -/
abbrev Params.wf (p : Params) : Prop :=
  p.addrSec + 6 < mapSize ∧
  p.addrSt1 < mapSize ∧ p.addrSt2 < mapSize ∧ p.addrInt < mapSize ∧
  p.addrSt1 ≠ p.addrSt2 ∧ p.addrSt1 ≠ p.addrInt ∧ p.addrSt2 ≠ p.addrInt ∧
  ¬ p.inTimeBlock p.addrSt1 ∧ ¬ p.inTimeBlock p.addrSt2 ∧ ¬ p.inTimeBlock p.addrInt ∧
  p.wpClear ≠ p.wpSet ∧
  2 ≤ p.bufCap

end Sys2Proof
end

