-- ==== Sys2Proof/Syntax.lean ====
section
/-! DEFINITION. The fourteen operations as syntax (30_encoding.md R49 to R53), their names, formats and ports, and the assembly lines of R59 and R60. -/
namespace Sys2Proof

/-- The nibble select `s` of format N: `lo` (`s = 0`) is bits 3:0, `hi` (`s = 1`) is bits 7:4 (30_encoding.md R52). -/
inductive NibbleSel where
  | lo
  | hi
  deriving DecidableEq, Repr

/-- The block's operations, one constructor per row of opcode_table.json (30_encoding.md R49). A bit index is
0..7 by its type, "all eight values are legal" (R52), so every term is a legal operation. -/
inductive Instr where
  | d2b
  | b2d
  | bclr (n : Fin 8)
  | bset (n : Fin 8)
  | nclr (s : NibbleSel)
  | nset (s : NibbleSel)
  | nins (s : NibbleSel)
  | pksec
  | upsec
  | pkdt
  | updt
  | pkwave
  | chkdt
  | chkwave
  deriving DecidableEq, Repr

/-- The three command-word formats (30_encoding.md R51). -/
inductive Format where
  | z
  | b
  | n
  deriving DecidableEq, Repr

/-- The format of each operation (30_encoding.md R51, R53). -/
def Instr.format : Instr → Format
  | .d2b => .z
  | .b2d => .z
  | .bclr _ => .b
  | .bset _ => .b
  | .nclr _ => .n
  | .nset _ => .n
  | .nins _ => .n
  | .pksec => .z
  | .upsec => .z
  | .pkdt => .z
  | .updt => .z
  | .pkwave => .z
  | .chkdt => .z
  | .chkwave => .z

/-- The output ports (10_state.md R17). -/
inductive OutPort where
  | y
  | vy
  | ok
  deriving DecidableEq, Repr

/-- The one output port each operation defines (30_encoding.md R53). -/
def Instr.writes : Instr → OutPort
  | .d2b => .y
  | .b2d => .y
  | .bclr _ => .y
  | .bset _ => .y
  | .nclr _ => .y
  | .nset _ => .y
  | .nins _ => .y
  | .pksec => .y
  | .upsec => .y
  | .pkdt => .vy
  | .updt => .vy
  | .pkwave => .y
  | .chkdt => .ok
  | .chkwave => .ok

/-- Does the operation read port `a` (30_encoding.md R53)? -/
def Instr.readsA : Instr → Bool
  | .d2b => true
  | .b2d => true
  | .bclr _ => true
  | .bset _ => true
  | .nclr _ => true
  | .nset _ => true
  | .nins _ => true
  | .pksec => true
  | .upsec => true
  | .pkdt => false
  | .updt => false
  | .pkwave => true
  | .chkdt => false
  | .chkwave => true

/-- Does the operation read port `f` (30_encoding.md R53)? -/
def Instr.readsF : Instr → Bool
  | .d2b => false
  | .b2d => false
  | .bclr _ => false
  | .bset _ => false
  | .nclr _ => false
  | .nset _ => true
  | .nins _ => true
  | .pksec => false
  | .upsec => false
  | .pkdt => false
  | .updt => false
  | .pkwave => true
  | .chkdt => false
  | .chkwave => false

/-- Does the operation read port `va` (30_encoding.md R53)? -/
def Instr.readsVa : Instr → Bool
  | .d2b => false
  | .b2d => false
  | .bclr _ => false
  | .bset _ => false
  | .nclr _ => false
  | .nset _ => false
  | .nins _ => false
  | .pksec => false
  | .upsec => false
  | .pkdt => true
  | .updt => true
  | .pkwave => false
  | .chkdt => true
  | .chkwave => false

/-- The mnemonics of 30_encoding.md R49 and the four pseudo-operations of R60, as an assembly line writes them.
A bit index is a number as written, not yet known to be 0..7. -/
inductive AsmOp where
  | d2b
  | b2d
  | bclr (n : Nat)
  | bset (n : Nat)
  | nclr (s : NibbleSel)
  | nset (s : NibbleSel)
  | nins (s : NibbleSel)
  | pksec
  | upsec
  | pkdt
  | updt
  | pkwave
  | chkdt
  | chkwave
  | chclr
  | chset
  | waveclr
  | waveset
  deriving DecidableEq, Repr

/-- The input side of an assembly line `MNEMONIC operands -> results` (30_encoding.md R59): the operands written as
`port=value`, none where the line does not write that port. -/
structure AsmLine where
  op : AsmOp
  a : Option Nat := none
  f : Option Nat := none
  va : Option (List Nat) := none
  deriving DecidableEq, Repr

end Sys2Proof
end

