-- ==== Sys2Proof/WellFormed.lean ====
section
/-! DEFINITION. The checks on what can be written wrongly: an assembly line (30_encoding.md R59, R60). An `Instr` is legal by its type (R52: a 3-bit index has no illegal value), so it needs no check of its own. -/
namespace Sys2Proof

/-- The operation an assembly mnemonic stands for, pseudo-operations expanded (30_encoding.md R60); none where the
bit index is not 0..7 (R52). -/
def AsmOp.expand : AsmOp → Option Instr
  | .d2b => some .d2b
  | .b2d => some .b2d
  | .bclr n => if h : n < 8 then some (.bclr ⟨n, h⟩) else none
  | .bset n => if h : n < 8 then some (.bset ⟨n, h⟩) else none
  | .nclr s => some (.nclr s)
  | .nset s => some (.nset s)
  | .nins s => some (.nins s)
  | .pksec => some .pksec
  | .upsec => some .upsec
  | .pkdt => some .pkdt
  | .updt => some .updt
  | .pkwave => some .pkwave
  | .chkdt => some .chkdt
  | .chkwave => some .chkwave
  | .chclr => some (.bclr 7)
  | .chset => some (.bset 7)
  | .waveclr => some (.nclr .lo)
  | .waveset => some (.nset .lo)

/-- A scalar operand is written exactly when the operation reads that port, and fits its `width` bits
(30_encoding.md R59, 10_state.md R17). -/
def scalarOperandOk (reads : Bool) (width : Nat) (v : Option Nat) : Bool :=
  match v with
  | none => !reads
  | some x => reads && decide (x < 2 ^ width)

/-- A vector operand is written exactly when the operation reads `va`, with seven elements that are Bytes
(30_encoding.md R59, 10_state.md R19). -/
def vectorOperandOk (reads : Bool) (v : Option (List Nat)) : Bool :=
  match v with
  | none => !reads
  | some xs => reads && decide (xs.length = 7) && xs.all (fun x => decide (x < 256))

/-- An assembly line is well formed: its mnemonic stands for an operation and its operands are that operation's. -/
def AsmLine.wf (l : AsmLine) : Bool :=
  match l.op.expand with
  | none => false
  | some i =>
    scalarOperandOk i.readsA 8 l.a && scalarOperandOk i.readsF 4 l.f && vectorOperandOk i.readsVa l.va

end Sys2Proof
end

