-- ==== Sys2Proof/Decode.lean ====
section
/-! DEFINITION. The command word: decoder (30_encoding.md R54), encoder (R49 to R52, R59) and the opcode table with its masks (R61, R62). -/
namespace Sys2Proof

/-- Why a command word is reserved (30_encoding.md R54, R55). -/
inductive Reserved where
  /-- `cmd[7:4]` is 0xE or 0xF. -/
  | opcode
  /-- Format Z with `cmd[3:0] != 0`. -/
  | argumentZ
  /-- Format B with `cmd[3] != 0`. -/
  | argumentB
  /-- Format N with `cmd[3:1] != 0`. -/
  | argumentN
  deriving DecidableEq, Repr

/-- What a command word decodes to. -/
inductive Decoded where
  | operation (i : Instr)
  | reserved (why : Reserved)
  deriving DecidableEq, Repr

/-- `cmd[7:4]`, the opcode (30_encoding.md R50). -/
def opcodeOf (c : Byte) : Nibble := c.extractLsb' 4 4

/-- `cmd[3:0]`, the argument (30_encoding.md R50). -/
def argOf (c : Byte) : Nibble := c.extractLsb' 0 4

/-- Format Z: the argument must be zero (30_encoding.md R51). -/
def decodeZ (i : Instr) (arg : Nibble) : Decoded :=
  if arg = 0 then .operation i else .reserved .argumentZ

/-- Format B: `arg[3]` must be zero, the bit index is `arg[2:0]` (30_encoding.md R51, R52). -/
def decodeB (op : Fin 8 → Instr) (arg : Nibble) : Decoded :=
  if h : arg.toNat < 8 then .operation (op ⟨arg.toNat, h⟩) else .reserved .argumentB

/-- The nibble select of `cmd[0]` (30_encoding.md R52). -/
def nibbleSelOf (s : Bool) : NibbleSel := if s then .hi else .lo

/-- Format N: `arg[3:1]` must be zero, the nibble select is `arg[0]` (30_encoding.md R51, R52). -/
def decodeN (op : NibbleSel → Instr) (arg : Nibble) : Decoded :=
  if arg.toNat < 2 then .operation (op (nibbleSelOf (arg.getLsbD 0))) else .reserved .argumentN

/-- Decoding, total on all 256 command words (30_encoding.md R54). -/
def decode (c : Byte) : Decoded :=
  match (opcodeOf c).toNat with
  | 0x0 => decodeZ .d2b (argOf c)
  | 0x1 => decodeZ .b2d (argOf c)
  | 0x2 => decodeB .bclr (argOf c)
  | 0x3 => decodeB .bset (argOf c)
  | 0x4 => decodeN .nclr (argOf c)
  | 0x5 => decodeN .nset (argOf c)
  | 0x6 => decodeN .nins (argOf c)
  | 0x7 => decodeZ .pksec (argOf c)
  | 0x8 => decodeZ .upsec (argOf c)
  | 0x9 => decodeZ .pkdt (argOf c)
  | 0xA => decodeZ .updt (argOf c)
  | 0xB => decodeZ .pkwave (argOf c)
  | 0xC => decodeZ .chkdt (argOf c)
  | 0xD => decodeZ .chkwave (argOf c)
  | _ => .reserved .opcode

/-- The instruction this decoder reads from a word the opcode table gives `nbits` bits. Every command word is 8
bits and there is no longer form (30_encoding.md R58), so a wider word is none. -/
def decodeTableWord (nbits w : Nat) : Option Instr :=
  if nbits ≤ 8 then
    match decode (BitVec.ofNat 8 (w % 2 ^ nbits)) with
    | .operation i => some i
    | .reserved _ => none
  else none

/-! ## Encoder -/

/-- The opcode of an operation (30_encoding.md R49). -/
def Instr.opcode : Instr → Nibble
  | .d2b => 0x0
  | .b2d => 0x1
  | .bclr _ => 0x2
  | .bset _ => 0x3
  | .nclr _ => 0x4
  | .nset _ => 0x5
  | .nins _ => 0x6
  | .pksec => 0x7
  | .upsec => 0x8
  | .pkdt => 0x9
  | .updt => 0xA
  | .pkwave => 0xB
  | .chkdt => 0xC
  | .chkwave => 0xD

/-- The bit `s` of a nibble select (30_encoding.md R52). -/
def NibbleSel.bit : NibbleSel → Nibble
  | .lo => 0
  | .hi => 1

/-- The argument field of an operation, must-be-zero bits included (30_encoding.md R51, R52). -/
def Instr.arg : Instr → Nibble
  | .d2b => 0
  | .b2d => 0
  | .bclr n => BitVec.ofNat 4 n.val
  | .bset n => BitVec.ofNat 4 n.val
  | .nclr s => s.bit
  | .nset s => s.bit
  | .nins s => s.bit
  | .pksec => 0
  | .upsec => 0
  | .pkdt => 0
  | .updt => 0
  | .pkwave => 0
  | .chkdt => 0
  | .chkwave => 0

/-- The command word of an operation: `cmd[7:4]` the opcode, `cmd[3:0]` the argument (30_encoding.md R50). -/
def encode (i : Instr) : Byte := i.opcode ++ i.arg

/-! ## The opcode table -/

/-- One row of opcode_table.json: a command word `c` selects the row exactly when `c & mask == value`
(30_encoding.md R61; `value` is the table's `match`). -/
structure OpcodeRow where
  mnemonic : String
  format : Format
  value : Byte
  mask : Byte
  deriving DecidableEq, Repr

/-- Does the command word `c` select the row (30_encoding.md R61)? -/
def OpcodeRow.selects (row : OpcodeRow) (c : Byte) : Bool := c &&& row.mask == row.value

/-- The mask of a format (30_encoding.md R62). -/
def Format.mask : Format → Byte
  | .z => 0xFF
  | .b => 0xF8
  | .n => 0xFE

/-- The fourteen rows, in the order of 30_encoding.md R49, with the table's own match and mask values. -/
def opcodeTable : List OpcodeRow :=
  [⟨"D2B", .z, 0x00, 0xFF⟩, ⟨"B2D", .z, 0x10, 0xFF⟩, ⟨"BCLR", .b, 0x20, 0xF8⟩, ⟨"BSET", .b, 0x30, 0xF8⟩,
   ⟨"NCLR", .n, 0x40, 0xFE⟩, ⟨"NSET", .n, 0x50, 0xFE⟩, ⟨"NINS", .n, 0x60, 0xFE⟩] ++
  [⟨"PKSEC", .z, 0x70, 0xFF⟩, ⟨"UPSEC", .z, 0x80, 0xFF⟩, ⟨"PKDT", .z, 0x90, 0xFF⟩, ⟨"UPDT", .z, 0xA0, 0xFF⟩,
   ⟨"PKWAVE", .z, 0xB0, 0xFF⟩, ⟨"CHKDT", .z, 0xC0, 0xFF⟩, ⟨"CHKWAVE", .z, 0xD0, 0xFF⟩]

/-- The mnemonic of an operation (30_encoding.md R49). -/
def Instr.mnemonic : Instr → String
  | .d2b => "D2B"
  | .b2d => "B2D"
  | .bclr _ => "BCLR"
  | .bset _ => "BSET"
  | .nclr _ => "NCLR"
  | .nset _ => "NSET"
  | .nins _ => "NINS"
  | .pksec => "PKSEC"
  | .upsec => "UPSEC"
  | .pkdt => "PKDT"
  | .updt => "UPDT"
  | .pkwave => "PKWAVE"
  | .chkdt => "CHKDT"
  | .chkwave => "CHKWAVE"

end Sys2Proof
end

