-- ==== Sys2Proof/Machine/State.lean ====
section
/-! DEFINITION. State: the values on the block's ports and the environment's state; the data types that cross the ports (10_state.md). The block itself holds no state (R15). -/
namespace Sys2Proof.Machine

/-- No fault exists: the block "raises no exception, takes no trap and signals no error" (60_exceptions.md R97).
Safe: there is nothing to raise. -/
inductive Fault where
  deriving DecidableEq, Repr

/-- Why the model gives no next state. -/
inductive Refusal where
  /-- Raised by an arm of exec whose instruction has no meaning yet: none is left. Safe. -/
  | notModelled (mnemonic : String)
  /-- Raised by `step` on a reserved command word: "A model refuses a reserved command word" (30_encoding.md R56). Safe. -/
  | reservedCommand (why : Reserved)
  /-- Raised by SetDateTime, GetDateTime and SetOutputWave on a Handler outside its lifecycle (93 U14; log 12). Safe. -/
  | outsideLifecycle
  /-- Raised by a bus access past offset 0x14 (93 U13; log 11). Safe. -/
  | pastEndOfMap
  /-- Raised by a bus write of a register other than ST1 outside the write-protect bracket (93 U13, R130; log 10). Safe. -/
  | outsideBracket
  /-- Raised by a `send` that carries no register address (log 23). Safe. -/
  | sendWithoutRegister
  /-- Raised by the engine if a transaction of the block did not define the port its operation names; no operation does
  that (log 23). Safe. -/
  | blockSilent
  deriving DecidableEq, Repr

/-- What one transaction puts on the output ports: only the port its operation names (10_state.md R18). -/
inductive Result where
  | y (v : Byte)
  | vy (v : VecBits)
  | ok (v : Bool)
  deriving DecidableEq, Repr

/-- The output port a result stands on. -/
def Result.port : Result → OutPort
  | .y _ => .y
  | .vy _ => .vy
  | .ok _ => .ok

/-- Seven Bytes in the buffer's index order (10_state.md R19): a DateTime in decimal (R20) or the seven-byte register
buffer (42_regmap_pack_unpack.md R81). -/
structure Fields where
  second : Byte
  minute : Byte
  hour : Byte
  weekDay : Byte
  day : Byte
  month : Byte
  year : Byte
  deriving DecidableEq, Repr

/-- Element `i` of the seven (10_state.md R19). -/
def Fields.get (x : Fields) (i : Fin 7) : Byte :=
  match i with
  | 0 => x.second
  | 1 => x.minute
  | 2 => x.hour
  | 3 => x.weekDay
  | 4 => x.day
  | 5 => x.month
  | 6 => x.year

/-- One transaction as the environment presents it: a command word and the values on the operand ports (00_scope.md R6). -/
structure Transaction where
  cmd : Byte
  a : Byte
  f : Nibble
  va : VecBits
  deriving DecidableEq, Repr

/-- The sixteen output waves, in the source's order (10_state.md R22). -/
inductive OutputWaveMode where
  | disabled
  | hz32768
  | hz4096
  | hz1024
  | hz64
  | hz32
  | hz16
  | hz8
  | hz4
  | hz2
  | hz1
  | hzHalf
  | hzQuarter
  | hzEighth
  | hzSixteenth
  | hzThirtySecond
  deriving DecidableEq, Repr

/-- The peripheral's register store: (offset, Byte) pairs, offsets rising, no pair equal to what an unlisted offset
reads as (20_memory.md R34; log 7). -/
abbrev Memory := List Host.Cell

/-- The environment's Handler (60_exceptions.md R101): which functions of the transport are bound. -/
structure Handler where
  sendBound : Bool
  receiveBound : Bool
  initHook : Bool
  deinitHook : Bool
  deriving DecidableEq, Repr

/-- One transport call (60_exceptions.md R111). `address` is the shifted slave address (R112). -/
inductive BusCall where
  | init
  | deinit
  | send (address : Byte) (bytes : List Byte)
  | receive (address : Byte) (count : Nat)
  deriving DecidableEq, Repr

/-- The environment's error kinds: "Two error kinds only" (60_exceptions.md R98). Return values, not faults. -/
inductive ErrorKind where
  | invalidParameter
  | transportFailure
  deriving DecidableEq, Repr

/-- The ports of the block in the current transaction, and the environment (INVENTORY.md, State). -/
structure State where
  /-- Input port `cmd` (10_state.md R17). -/
  cmd : Byte
  /-- Input port `a` (10_state.md R17). -/
  a : Byte
  /-- Input port `f` (10_state.md R17). -/
  f : Nibble
  /-- Input port `va` (10_state.md R17). -/
  va : VecBits
  /-- The output ports `y`, `vy`, `ok`: what the last transaction defined; none before the first (10_state.md R18, R32). -/
  out : Option Result
  /-- The peripheral's register store (10_state.md R27). -/
  store : Memory
  /-- The peripheral's internal register pointer (20_memory.md R40). -/
  pointer : Nat
  /-- The Handler (60_exceptions.md R101). -/
  handler : Handler
  /-- Init succeeded and DeInit was not called since (93 U14; log 12). -/
  ready : Bool
  /-- The transport's answers to the coming calls, oldest first (log 13). -/
  answers : List Answer
  /-- The transport calls issued so far, oldest first (95_test_vectors.md S6; log 13). -/
  calls : List BusCall
  deriving DecidableEq, Repr

/-- Before the first transaction. The spec gives no reset value to any of these: the block has no state and no reset
(70_reset_and_hazards.md R123), its outputs are not defined (10_state.md R32), the store is arbitrary (R125).
The input ports' zeros are a DESIGN CHOICE (log 2), the Handler's bindings too (log 15). -/
def State.reset : State where
  cmd := 0
  a := 0
  f := 0
  va := 0
  out := none
  store := []
  pointer := Config.pointerAtPowerOn
  handler := { sendBound := true, receiveBound := true, initHook := false, deinitHook := false }
  ready := false
  answers := []
  calls := []

end Sys2Proof.Machine
end

