-- ==== Sys2Proof/Machine/Operands.lean ====
section
/-! DEFINITION. Operand forms: nibbles and flag bits of a register Byte, the masks of the bit-field helpers, and the elements of a vector port. -/
namespace Sys2Proof.Machine

/-- Bits 7:4, the high nibble: the tens digit of a BCD Byte (00_scope.md R8, 20_memory.md R37). -/
def hiNibble (b : Byte) : Nibble := b.extractLsb' 4 4

/-- Bits 3:0, the low nibble: the ones digit of a BCD Byte, the wave select of INT (00_scope.md R8, 10_state.md R30). -/
def loNibble (b : Byte) : Nibble := b.extractLsb' 0 4

/-- The Byte `{hi, lo}` (00_scope.md R9). -/
def ofNibbles (hi lo : Nibble) : Byte := hi ++ lo

/-- The nibble `s` selects (30_encoding.md R52). -/
def selNibble (s : NibbleSel) (b : Byte) : Nibble :=
  match s with
  | .lo => loNibble b
  | .hi => hiNibble b

/-- CH, bit 7 of the seconds Byte (10_state.md R28). -/
def clockHalt (b : Byte) : Bool := b.getLsbD 7

/-- `zext_8` of a nibble (00_scope.md R9). -/
def zext8 (m : Nibble) : Byte := m.setWidth 8

/-- `BitMask(n)`: bit `n` set and no other (41_bitfield_helpers.md R71). -/
def bitMask (n : Fin 8) : Byte := 1#8 <<< n.val

/-- `NibMask(s)` (41_bitfield_helpers.md R71). -/
def nibMask : NibbleSel → Byte
  | .lo => 0x0F
  | .hi => 0xF0

/-- `NibPlace(s, m)`: `zext_8(m) << (4*s)` (41_bitfield_helpers.md R71). -/
def nibPlace (s : NibbleSel) (m : Nibble) : Byte :=
  match s with
  | .lo => zext8 m
  | .hi => zext8 m <<< 4

/-- The mask that takes the clock-halt bit off a seconds Byte (42_regmap_pack_unpack.md R81). -/
def seconds7F : Byte := 0x7F

/-- Element `i` of a vector port: bits `8*i+7 : 8*i` (10_state.md R19). -/
def elem (v : VecBits) (i : Nat) : Byte := v.extractLsb' (8 * i) 8

/-- The seven elements of a vector port (10_state.md R19). -/
def Fields.ofPort (v : VecBits) : Fields where
  second := elem v 0
  minute := elem v 1
  hour := elem v 2
  weekDay := elem v 3
  day := elem v 4
  month := elem v 5
  year := elem v 6

/-- The vector port that holds the seven elements, element 0 in the least significant Byte (10_state.md R19). -/
def Fields.toPort (x : Fields) : VecBits :=
  x.year ++ x.month ++ x.day ++ x.weekDay ++ x.hour ++ x.minute ++ x.second

/-- The seven elements in index order: the data Bytes of a burst (20_memory.md R36). -/
def Fields.toList (x : Fields) : List Byte :=
  [x.second, x.minute, x.hour, x.weekDay, x.day, x.month, x.year]

/-- The seven Bytes a burst read returned, in index order; none for any other number of Bytes. -/
def Fields.ofList : List Byte → Option Fields
  | [b0, b1, b2, b3, b4, b5, b6] => some ⟨b0, b1, b2, b3, b4, b5, b6⟩
  | _ => none

/-- The 4-bit value of an output wave, in listing order from 0 (10_state.md R22; the spec's decision D14, log 18). -/
def OutputWaveMode.code : OutputWaveMode → Nibble
  | .disabled => 0
  | .hz32768 => 1
  | .hz4096 => 2
  | .hz1024 => 3
  | .hz64 => 4
  | .hz32 => 5
  | .hz16 => 6
  | .hz8 => 7
  | .hz4 => 8
  | .hz2 => 9
  | .hz1 => 10
  | .hzHalf => 11
  | .hzQuarter => 12
  | .hzEighth => 13
  | .hzSixteenth => 14
  | .hzThirtySecond => 15

/-- The output wave of a 4-bit value (10_state.md R22; log 18). -/
def OutputWaveMode.ofCode (m : Nibble) : OutputWaveMode :=
  match m.toNat with
  | 0 => .disabled
  | 1 => .hz32768
  | 2 => .hz4096
  | 3 => .hz1024
  | 4 => .hz64
  | 5 => .hz32
  | 6 => .hz16
  | 7 => .hz8
  | 8 => .hz4
  | 9 => .hz2
  | 10 => .hz1
  | 11 => .hzHalf
  | 12 => .hzQuarter
  | 13 => .hzEighth
  | 14 => .hzSixteenth
  | _ => .hzThirtySecond

end Sys2Proof.Machine
end

