-- ==== Sys2Proof/Machine/Flags.lean ====
section
/-! DEFINITION. The block has no flag register and no condition codes (10_state.md R24). The one-bit verdicts that CHKDT and CHKWAVE put on port `ok`. -/
namespace Sys2Proof.Machine

/-- `lo <= b <= hi`, the Byte read as an unsigned number. -/
def inRange (lo hi : Nat) (b : Byte) : Bool := decide (lo ≤ b.toNat) && decide (b.toNat ≤ hi)

/-- `ValidDateTime(x)`: one verdict for the seven ranges (10_state.md R20, R21). -/
def validDateTime (x : Fields) : Bool :=
  inRange 0 59 x.second && inRange 0 59 x.minute && inRange 0 23 x.hour && inRange 1 7 x.weekDay &&
    inRange 1 31 x.day && inRange 1 12 x.month && inRange 0 99 x.year

/-- `ValidWave(m)`: `m <= 15` (10_state.md R23). -/
def validWave (m : Byte) : Bool := inRange 0 15 m

end Sys2Proof.Machine
end

