-- ==== Sys2Proof/Machine/Ops.lean ====
section
/-! DEFINITION. The shared operations: the converters D2B and B2D, reading and writing ports, and the peripheral's register store. There is no exception to take and none to return from: "Trap entry: none" (60_exceptions.md R97, R117, R118). -/
namespace Sys2Proof.Machine

/-! ## The converters -/

/-- `InDomD2B(v)` (40_bcd_converters.md R63). -/
abbrev inDomD2b (v : Byte) : Prop := v.toNat ≤ 99

/-- `InDomB2D(b)`: both nibbles are digits (40_bcd_converters.md R63). -/
abbrev inDomB2d (b : Byte) : Prop := (hiNibble b).toNat ≤ 9 ∧ (loNibble b).toNat ≤ 9

/-- `D2B(v)`: tens digit into the high nibble, ones digit into the low nibble; above 99 the open function
(40_bcd_converters.md R64, R70). -/
def d2b (v : Byte) : Byte :=
  if inDomD2b v then ofNibbles (BitVec.ofNat 4 (v.toNat / 10)) (BitVec.ofNat 4 (v.toNat % 10)) else Config.oodD2B v

/-- `B2D(b)`: ten times the high digit plus the low digit; where a nibble is no digit the open function
(40_bcd_converters.md R66, R70). -/
def b2d (b : Byte) : Byte :=
  if inDomB2d b then BitVec.ofNat 8 (10 * (hiNibble b).toNat + (loNibble b).toNat) else Config.oodB2D b

/-- The encode of the Second field: the clock-halt bit is forced to 0 after the converter (42_regmap_pack_unpack.md R81). -/
def packSecond (v : Byte) : Byte := d2b v &&& seconds7F

/-- The decode of the seconds Byte: the clock-halt bit is masked off before the converter (42_regmap_pack_unpack.md R81). -/
def unpackSecond (b : Byte) : Byte := b2d (b &&& seconds7F)

/-- Encode each field, element by element; only element 0 is masked (42_regmap_pack_unpack.md R81, R84). -/
def packFields (x : Fields) : Fields where
  second := packSecond x.second
  minute := d2b x.minute
  hour := d2b x.hour
  weekDay := d2b x.weekDay
  day := d2b x.day
  month := d2b x.month
  year := d2b x.year

/-- Decode each Byte, element by element; only element 0 is masked (42_regmap_pack_unpack.md R81, R85). -/
def unpackFields (b : Fields) : Fields where
  second := unpackSecond b.second
  minute := b2d b.minute
  hour := b2d b.hour
  weekDay := b2d b.weekDay
  day := b2d b.day
  month := b2d b.month
  year := b2d b.year

/-- Clear bits `mask` of a register Byte (41_bitfield_helpers.md R72, R74). -/
def clearBits (mask b : Byte) : Byte := b &&& ~~~mask

/-- OR `bits` into a register Byte (41_bitfield_helpers.md R73, R75). -/
def setBits (bits b : Byte) : Byte := b ||| bits

/-! ## Ports -/

/-- Port write `y <- v`: the only output the transaction defines (00_scope.md R11, 10_state.md R18). -/
def State.setY (s : State) (v : Byte) : State := { s with out := some (.y v) }

/-- Port write `vy <- v` (00_scope.md R11, 10_state.md R18). -/
def State.setVy (s : State) (v : VecBits) : State := { s with out := some (.vy v) }

/-- Port write `ok <- v` (00_scope.md R11, 10_state.md R18). -/
def State.setOk (s : State) (v : Bool) : State := { s with out := some (.ok v) }

/-- The environment puts a transaction on the input ports and holds it there (70_reset_and_hazards.md R132). -/
def State.present (s : State) (t : Transaction) : State := { s with cmd := t.cmd, a := t.a, f := t.f, va := t.va }

/-- Present operation `i` with the scalar operand `v` on `a` and the field value `m` on `f`; `va` keeps its value. -/
def State.presentScalar (s : State) (i : Instr) (v : Byte) (m : Nibble) : State :=
  { s with cmd := encode i, a := v, f := m }

/-- Present operation `i` with the seven elements `x` on `va`; `a` and `f` keep their values. -/
def State.presentVector (s : State) (i : Instr) (x : Fields) : State :=
  { s with cmd := encode i, va := x.toPort }

/-- The value an assembly line puts on a port of `w` bits; a port it does not write keeps its value (log 24). -/
def portValue (w : Nat) (written : Option Nat) (old : BitVec w) : BitVec w :=
  match written with
  | some v => BitVec.ofNat w v
  | none => old

/-- The value an assembly line puts on `va`: its seven elements in index order (30_encoding.md R59). -/
def vectorPortValue (written : Option (List Nat)) (old : VecBits) : VecBits :=
  match written with
  | none => old
  | some xs =>
    match Fields.ofList (xs.map (BitVec.ofNat 8)) with
    | some x => x.toPort
    | none => old

/-- Present operation `i` with the operands the line writes (30_encoding.md R59). -/
def State.presentOperands (s : State) (i : Instr) (l : AsmLine) : State :=
  { s with cmd := encode i, a := portValue 8 l.a s.a, f := portValue 4 l.f s.f, va := vectorPortValue l.va s.va }

/-- Present an assembly line: the command word of the operation it stands for and the operands it writes (30_encoding.md
R59, R60). None where the line is not well formed. -/
def State.presentLine (s : State) (l : AsmLine) : Option State :=
  if l.wf then l.op.expand.map fun i => s.presentOperands i l else none

/-! ## The peripheral's register store -/

/-- The Byte at offset `r`; an offset that is not listed reads as its free power-on value (20_memory.md R34, log 7). -/
def Memory.read : Memory → Nat → Byte
  | [], r => Config.powerOnByte r
  | (k, b) :: m, r => if r = k then b else Memory.read m r

/-- Remove the entry of offset `r`. -/
def Memory.erase : Memory → Nat → Memory
  | [], _ => []
  | (k, b) :: m, r => if r = k then Memory.erase m r else (k, b) :: Memory.erase m r

/-- List Byte `b` at offset `r`, before the first higher offset; for a store that does not list `r`. -/
def Memory.insert : Memory → Nat → Byte → Memory
  | [], r, b => [(r, b)]
  | (k, c) :: m, r, b => if r < k then (r, b) :: (k, c) :: m else (k, c) :: Memory.insert m r b

/-- `MemWrite(r, 1, b)`, keeping the canonical form (60_exceptions.md R107, log 7). -/
def Memory.write (m : Memory) (r : Nat) (b : Byte) : Memory :=
  if b = Config.powerOnByte r then m.erase r else (m.erase r).insert r b

/-- The canonical form: offsets of the map, strictly rising, and no entry equal to what an unlisted offset reads as. -/
abbrev Memory.wf (m : Memory) : Prop :=
  m.Pairwise (fun c d => c.1 < d.1) ∧ ∀ c ∈ m, c.1 < mapSize ∧ c.2 ≠ Config.powerOnByte c.1

/-- `MemRead(r, n)`: `n` Bytes from consecutive offsets (60_exceptions.md R107). -/
def Memory.readBytes (m : Memory) (r : Nat) : Nat → List Byte
  | 0 => []
  | n + 1 => m.read r :: Memory.readBytes m (r + 1) n

/-- `MemWrite(r, n, bytes)`: to consecutive offsets (60_exceptions.md R110). -/
def Memory.writeBytes (m : Memory) (r : Nat) : List Byte → Memory
  | [] => m
  | b :: bs => Memory.writeBytes (m.write r b) (r + 1) bs

end Sys2Proof.Machine
end

