-- ==== Sys2Proof/Machine/Bcd.lean ====
section
/-! DEFINITION. The BCD converters D2B and B2D (40_bcd_converters.md). -/
namespace Sys2Proof.Machine

/-- D2B (40_bcd_converters.md R64). -/
def execD2b (s : State) : Host.Outcome State Fault Refusal := .next (s.setY (d2b s.a))

/-- B2D (40_bcd_converters.md R66). -/
def execB2d (s : State) : Host.Outcome State Fault Refusal := .next (s.setY (b2d s.a))

end Sys2Proof.Machine
end

