-- ==== Sys2Proof/Machine/Bitfield.lean ====
section
/-! DEFINITION. The bit-field helpers BCLR, BSET, NCLR, NSET and NINS (41_bitfield_helpers.md). -/
namespace Sys2Proof.Machine

/-- BCLR: `y <- a & ~BitMask(n)` (41_bitfield_helpers.md R72). -/
def execBclr (n : Fin 8) (s : State) : Host.Outcome State Fault Refusal := .next (s.setY (clearBits (bitMask n) s.a))

/-- BSET: `y <- a | BitMask(n)` (41_bitfield_helpers.md R73). -/
def execBset (n : Fin 8) (s : State) : Host.Outcome State Fault Refusal := .next (s.setY (setBits (bitMask n) s.a))

/-- NCLR: `y <- a & ~NibMask(s)` (41_bitfield_helpers.md R74). -/
def execNclr (sel : NibbleSel) (s : State) : Host.Outcome State Fault Refusal :=
  .next (s.setY (clearBits (nibMask sel) s.a))

/-- NSET: `y <- a | NibPlace(s, f)`, an OR and not a replace (41_bitfield_helpers.md R75). -/
def execNset (sel : NibbleSel) (s : State) : Host.Outcome State Fault Refusal :=
  .next (s.setY (setBits (nibPlace sel s.f) s.a))

/-- NINS: `y <- (a & ~NibMask(s)) | NibPlace(s, f)` (41_bitfield_helpers.md R76). -/
def execNins (sel : NibbleSel) (s : State) : Host.Outcome State Fault Refusal :=
  .next (s.setY (setBits (nibPlace sel s.f) (clearBits (nibMask sel) s.a)))

end Sys2Proof.Machine
end

