-- ==== Sys2Proof/Machine/Regmap.lean ====
section
/-! DEFINITION. The register-map packer, unpacker and range checks: PKSEC, UPSEC, PKDT, UPDT, PKWAVE, CHKDT, CHKWAVE (42_regmap_pack_unpack.md). -/
namespace Sys2Proof.Machine

/-- PKSEC: `y <- D2B(a) & 0x7F` (42_regmap_pack_unpack.md R82). -/
def execPksec (s : State) : Host.Outcome State Fault Refusal := .next (s.setY (packSecond s.a))

/-- UPSEC: `y <- B2D(a & 0x7F)` (42_regmap_pack_unpack.md R83). -/
def execUpsec (s : State) : Host.Outcome State Fault Refusal := .next (s.setY (unpackSecond s.a))

/-- PKDT: encode the seven elements (42_regmap_pack_unpack.md R84). -/
def execPkdt (s : State) : Host.Outcome State Fault Refusal := .next (s.setVy (packFields (Fields.ofPort s.va)).toPort)

/-- UPDT: decode the seven elements (42_regmap_pack_unpack.md R85). -/
def execUpdt (s : State) : Host.Outcome State Fault Refusal := .next (s.setVy (unpackFields (Fields.ofPort s.va)).toPort)

/-- PKWAVE: `y <- (a & 0xF0) | zext_8(f)` (42_regmap_pack_unpack.md R86). -/
def execPkwave (s : State) : Host.Outcome State Fault Refusal := .next (s.setY ((s.a &&& 0xF0) ||| zext8 s.f))

/-- CHKDT: `ok <- ValidDateTime(va)` (42_regmap_pack_unpack.md R87). -/
def execChkdt (s : State) : Host.Outcome State Fault Refusal := .next (s.setOk (validDateTime (Fields.ofPort s.va)))

/-- CHKWAVE: `ok <- ValidWave(a)` (42_regmap_pack_unpack.md R88). -/
def execChkwave (s : State) : Host.Outcome State Fault Refusal := .next (s.setOk (validWave s.a))

end Sys2Proof.Machine
end

