-- ==== Sys2Proof/Machine/Dispatch.lean ====
section
/-! DEFINITION. exec: one arm per operation. -/
namespace Sys2Proof.Machine

def exec (i : Instr) (s : State) : Host.Outcome State Fault Refusal :=
  match i with
  | .d2b => Sys2Proof.Machine.execD2b s
  | .b2d => Sys2Proof.Machine.execB2d s
  | .bclr n => Sys2Proof.Machine.execBclr n s
  | .bset n => Sys2Proof.Machine.execBset n s
  | .nclr sel => Sys2Proof.Machine.execNclr sel s
  | .nset sel => Sys2Proof.Machine.execNset sel s
  | .nins sel => Sys2Proof.Machine.execNins sel s
  | .pksec => Sys2Proof.Machine.execPksec s
  | .upsec => Sys2Proof.Machine.execUpsec s
  | .pkdt => Sys2Proof.Machine.execPkdt s
  | .updt => Sys2Proof.Machine.execUpdt s
  | .pkwave => Sys2Proof.Machine.execPkwave s
  | .chkdt => Sys2Proof.Machine.execChkdt s
  | .chkwave => Sys2Proof.Machine.execChkwave s

end Sys2Proof.Machine
end

