-- ==== Sys2Proof/Machine/Step.lean ====
section
/-! DEFINITION. One step: the transaction whose command word stands on port `cmd` (00_scope.md R6, 30_encoding.md R50, R54). -/
namespace Sys2Proof.Machine

/-- One transaction of the block: decode the command word, evaluate its operation on the operand ports; a reserved word
is refused (30_encoding.md R56). The input ports keep their values: the environment holds them (70_reset_and_hazards.md
R132), and there is no program counter to advance (10_state.md R16). -/
def step (s : State) : Host.Outcome State Fault Refusal :=
  match decode s.cmd with
  | .operation i => exec i s
  | .reserved why => .refused (.reservedCommand why)

/-- The state in which the next transaction carries the command word `w` of `nbits` bits: the environment presents it on
port `cmd` (log 3). -/
def State.withFetchWord (s : State) (nbits w : Nat) : State := { s with cmd := BitVec.ofNat 8 (w % 2 ^ nbits) }

end Sys2Proof.Machine
end

