-- ==== Sys2Proof/Machine/Bus.lean ====
section
/-! DEFINITION. The environment's transport and peripheral: one exchange at a time, the register reads and the chunked burst write (60_exceptions.md R107, R110 to R112). -/
namespace Sys2Proof.Machine

/-- How an operation of the environment ends: with a value, with one of the two error kinds (60_exceptions.md R98), or
refused where the spec gives no meaning. -/
inductive Reply (α : Type) where
  | done (v : α) (s : State)
  | failed (e : ErrorKind) (s : State)
  | refused (r : Refusal)
  deriving DecidableEq, Repr

/-- One exchange after another: the next begins only when the one before has completed, and the first failure is
returned at once (20_memory.md R43, 60_exceptions.md R114). -/
def Reply.andThen {α β : Type} (x : Reply α) (k : α → State → Reply β) : Reply β :=
  match x with
  | .done v s => k v s
  | .failed e s => .failed e s
  | .refused r => .refused r

/-- `(0x68 << 1) | rw`, the shifted slave address: read = 1, write = 0 (60_exceptions.md R112; log 16). -/
def slaveAddress (read : Bool) : Byte := (0x68#8 <<< 1) ||| (if read then 1 else 0)

/-- Issue one transport call: it is recorded, and the transport answers it (60_exceptions.md R111; log 13). -/
def exchange (c : BusCall) (s : State) : Answer × State :=
  match s.answers with
  | [] => (Config.transportAnswer s.calls.length, { s with calls := s.calls ++ [c] })
  | x :: xs => (x, { s with calls := s.calls ++ [c], answers := xs })

/-- A call of an optional hook: it succeeds or the operation fails (60_exceptions.md R102, R103). -/
def callHook (c : BusCall) (s : State) : Reply Unit :=
  match exchange c s with
  | (.success, t) => .done () t
  | (.failure _, t) => .failed .transportFailure t

/-- ST1 holds the Byte that clears write protection (60_exceptions.md R108; log 10). -/
abbrev State.unprotected (p : Params) (s : State) : Prop := s.store.read p.addrSt1 = p.wpClear

/-- What the peripheral does with data Bytes written from offset `r`: `MemWrite(r, n, bytes)` (60_exceptions.md R107, R110).
No meaning past the map (log 11), none for a register other than ST1 outside the bracket (70_reset_and_hazards.md R130; log 10).
DESIGN CHOICE: protection is looked at once, before the run, so a run that crosses ST1 lands whole, also where the Byte it
puts into ST1 protects again; the spec is silent (91_not_in_source.md N15; log 26). -/
def peripheralWrite (p : Params) (r : Nat) (data : List Byte) (s : State) : Reply Unit :=
  if mapSize < r + data.length then .refused .pastEndOfMap
  else if s.unprotected p ∨ (r = p.addrSt1 ∧ data.length = 1) then
    .done () { s with store := s.store.writeBytes r data, pointer := Config.pointerAfterWrite r data.length }
  else .refused .outsideBracket

/-- `send(slave, bytes)`: the start-register address Byte, then data Bytes (60_exceptions.md R107, R110). A failing send
leaves the peripheral as it was (R117; log 14). -/
def send (p : Params) (bytes : List Byte) (s : State) : Reply Unit :=
  match exchange (.send (slaveAddress false) bytes) s with
  | (.failure _, t) => .failed .transportFailure t
  | (.success, t) =>
    match bytes with
    | [] => .refused .sendWithoutRegister
    | [r] => .done () { t with pointer := r.toNat }
    | r :: b :: bs => peripheralWrite p r.toNat (b :: bs) t

/-- `receive(slave, n)`: `n` Bytes from the register pointer, which auto-increments (60_exceptions.md R107, 20_memory.md R40). -/
def receive (n : Nat) (s : State) : Reply (List Byte) :=
  match exchange (.receive (slaveAddress true) n) s with
  | (.failure _, t) => .failed .transportFailure t
  | (.success, t) =>
    if mapSize < t.pointer + n then .refused .pastEndOfMap
    else .done (t.store.readBytes t.pointer n) { t with pointer := t.pointer + n }

/-- The address Byte of register offset `r`. -/
def regByte (r : Nat) : Byte := BitVec.ofNat 8 r

/-- Read `n` Bytes from register `r`: "always two transport operations" (60_exceptions.md R107). -/
def readRegisters (p : Params) (r n : Nat) (s : State) : Reply (List Byte) :=
  (send p [regByte r] s).andThen fun _ t => receive n t

/-- Read one register (60_exceptions.md R107). -/
def readRegister (p : Params) (r : Nat) (s : State) : Reply Byte :=
  (readRegisters p r 1 s).andThen fun bs t =>
    match bs with
    | [b] => .done b t
    | [] => .refused .blockSilent
    | _ :: _ :: _ => .refused .blockSilent

/-- `data` cut into pieces of `d` Bytes, the last one shorter; `fuel` is at least the number of pieces
(60_exceptions.md R110). -/
def chunks (d : Nat) : Nat → List Byte → List (List Byte)
  | 0, _ => []
  | _ + 1, [] => []
  | fuel + 1, b :: bs => (b :: bs).take d :: chunks d fuel ((b :: bs).drop d)

/-- Send the chunks, re-sending the incrementing start-register address with each (60_exceptions.md R110). -/
def sendChunks (p : Params) (r : Nat) (cs : List (List Byte)) (s : State) : Reply Unit :=
  match cs with
  | [] => .done () s
  | c :: rest => (send p (regByte r :: c) s).andThen fun _ t => sendChunks p (r + c.length) rest t

/-- Burst write of `data` from register `r` through a buffer of `BUF_CAP` Bytes, `D = BUF_CAP - 1` of them data
(60_exceptions.md R110). -/
def burstWrite (p : Params) (r : Nat) (data : List Byte) (s : State) : Reply Unit :=
  sendChunks p r (chunks (p.bufCap - 1) data.length data) s

/-- Single-register write: a burst write of one data Byte (60_exceptions.md R107). -/
def writeRegister (p : Params) (r : Nat) (v : Byte) (s : State) : Reply Unit := burstWrite p r [v] s

end Sys2Proof.Machine
end

