-- ==== Sys2Proof/Machine/Engine.lean ====
section
/-! DEFINITION. The environment's Protocol Engine: Init, DeInit, SetDateTime, GetDateTime, SetOutputWave (60_exceptions.md R100 to R109). Each transaction of the block they use is one `step` on its command word. -/
namespace Sys2Proof.Machine

/-! ## Transactions of the block -/

/-- Evaluate the transaction on the ports and read `y`. -/
def askY (s : State) : Reply Byte :=
  match step s with
  | .refused r => .refused r
  | .next t =>
    match t.out with
    | some (.y v) => .done v t
    | some (.vy _) => .refused .blockSilent
    | some (.ok _) => .refused .blockSilent
    | none => .refused .blockSilent

/-- Evaluate the transaction on the ports and read the seven elements of `vy`. -/
def askVy (s : State) : Reply Fields :=
  match step s with
  | .refused r => .refused r
  | .next t =>
    match t.out with
    | some (.vy v) => .done (Fields.ofPort v) t
    | some (.y _) => .refused .blockSilent
    | some (.ok _) => .refused .blockSilent
    | none => .refused .blockSilent

/-- Evaluate the transaction on the ports and read `ok`. -/
def askOk (s : State) : Reply Bool :=
  match step s with
  | .refused r => .refused r
  | .next t =>
    match t.out with
    | some (.ok v) => .done v t
    | some (.y _) => .refused .blockSilent
    | some (.vy _) => .refused .blockSilent
    | none => .refused .blockSilent

/-- The block's verdict gates what follows: `ok = 0` is InvalidParameter (60_exceptions.md R99). -/
def checked (s : State) (k : State → Reply Unit) : Reply Unit :=
  (askOk s).andThen fun ok t => if ok then k t else .failed .invalidParameter t

/-! ## The write-protect bracket -/

/-- Write ST1 with write-protect off (60_exceptions.md R108). -/
def clearProtect (p : Params) (s : State) : Reply Unit := writeRegister p p.addrSt1 p.wpClear s

/-- Write ST1 with write-protect on (60_exceptions.md R108). -/
def setProtect (p : Params) (s : State) : Reply Unit := writeRegister p p.addrSt1 p.wpSet s

/-- After a failed data write: return at once, or with `REPROTECT_ON_FAILURE` issue the set-protect write once, ignore
its outcome, and return the original failure (60_exceptions.md R109; log 22). -/
def reprotect (p : Params) (x : Reply Unit) : Reply Unit :=
  match x with
  | .done _ s => .done () s
  | .refused r => .refused r
  | .failed e s =>
    if p.reprotectOnFailure then
      match setProtect p s with
      | .done _ t => .failed e t
      | .failed _ t => .failed e t
      | .refused r => .refused r
    else .failed e s

/-- Clear protection, write the data, set protection (60_exceptions.md R108). -/
def bracket (p : Params) (write : State → Reply Unit) (s : State) : Reply Unit :=
  (clearProtect p s).andThen fun _ t => (reprotect p (write t)).andThen fun _ u => setProtect p u

/-! ## The five operations -/

/-- Init: InvalidParameter without a send or receive binding; then the init hook, if bound (60_exceptions.md R102). -/
def engineInit (s : State) : Reply Unit :=
  if s.handler.sendBound && s.handler.receiveBound then
    if s.handler.initHook then
      (callHook .init { s with ready := false }).andThen fun _ t => .done () { t with ready := true }
    else .done () { s with ready := true }
  else .failed .invalidParameter { s with ready := false }

/-- DeInit: the deinit hook, if bound; otherwise it succeeds (60_exceptions.md R103). -/
def engineDeInit (s : State) : Reply Unit :=
  if s.handler.deinitHook then callHook .deinit { s with ready := false }
  else .done () { s with ready := false }

/-- SetDateTime (60_exceptions.md R104). -/
def setDateTime (p : Params) (x : Fields) (s : State) : Reply Unit :=
  if s.ready then
    checked (s.presentVector .chkdt x) fun t =>
      (askVy (t.presentVector .pkdt x)).andThen fun buf u =>
        bracket p (fun v => burstWrite p p.addrSec buf.toList v) u
  else .refused .outsideLifecycle

/-- GetDateTime (60_exceptions.md R105). -/
def getDateTime (p : Params) (s : State) : Reply Fields :=
  if s.ready then
    (readRegisters p p.addrSec 7 s).andThen fun bs t =>
      match Fields.ofList bs with
      | none => .refused .blockSilent
      | some buf => askVy (t.presentVector .updt buf)
  else .refused .outsideLifecycle

/-- SetOutputWave (60_exceptions.md R106), the INT Byte formed by PKWAVE (log 21). -/
def setOutputWave (p : Params) (mode : Byte) (s : State) : Reply Unit :=
  if s.ready then
    checked (s.presentScalar .chkwave mode s.f) fun t =>
      (readRegister p p.addrInt t).andThen fun r u =>
        (askY (u.presentScalar .pkwave r (loNibble mode))).andThen fun w v =>
          (bracket p (fun z => writeRegister p p.addrInt w z) v).andThen fun _ z =>
            (readRegister p p.addrInt z).andThen fun _ z' => .done () z'
  else .refused .outsideLifecycle

end Sys2Proof.Machine
end

