-- ==== Sys2Proof/Safety.lean ====
section
/-! DEFINITION. What the claims speak of: a transaction and its answer, the invariant of State, and the frame of the environment's operations. -/
namespace Sys2Proof

/-- The other nibble. -/
def NibbleSel.other : NibbleSel → NibbleSel
  | .lo => .hi
  | .hi => .lo

/-- The bits of a register Byte a bit-field helper can change (41_bitfield_helpers.md R77 item 1): the bit or the nibble it
names; every bit for an operation of another family. -/
def Instr.touches : Instr → Byte
  | .d2b => 0xFF
  | .b2d => 0xFF
  | .bclr n => Machine.bitMask n
  | .bset n => Machine.bitMask n
  | .nclr sel => Machine.nibMask sel
  | .nset sel => Machine.nibMask sel
  | .nins sel => Machine.nibMask sel
  | .pksec => 0xFF
  | .upsec => 0xFF
  | .pkdt => 0xFF
  | .updt => 0xFF
  | .pkwave => 0xFF
  | .chkdt => 0xFF
  | .chkwave => 0xFF

/-- The five bit-field helpers (41_bitfield_helpers.md). -/
def Instr.isHelper : Instr → Bool
  | .d2b => false
  | .b2d => false
  | .bclr _ => true
  | .bset _ => true
  | .nclr _ => true
  | .nset _ => true
  | .nins _ => true
  | .pksec => false
  | .upsec => false
  | .pkdt => false
  | .updt => false
  | .pkwave => false
  | .chkdt => false
  | .chkwave => false

/-- The pure ORs BSET and NSET (41_bitfield_helpers.md R77 item 6). -/
def Instr.isOr (i : Instr) : Prop := (∃ n, i = .bset n) ∨ ∃ sel, i = .nset sel

/-- The pure ANDs BCLR and NCLR (41_bitfield_helpers.md R77 item 6). -/
def Instr.isAnd (i : Instr) : Prop := (∃ n, i = .bclr n) ∨ ∃ sel, i = .nclr sel

/-- An answer without its kind: the engine does not tell kinds of failure apart (60_exceptions.md R111). -/
def Answer.isSuccess : Answer → Bool
  | .success => true
  | .failure _ => false

end Sys2Proof

namespace Sys2Proof.Machine

/-- Presented with operation `i`, operand `a` and field value `f` in state `s`, the block completes, answers `y` on port
`y`, and nothing else changes. -/
def AnswersY (s : State) (i : Instr) (a : Byte) (f : Nibble) (y : Byte) : Prop :=
  step (s.presentScalar i a f) = .next ((s.presentScalar i a f).setY y)

/-- Presented with the vector operation `i` on the seven elements `x`, the block completes, answers `y` on port `vy`, and
nothing else changes. -/
def AnswersVy (s : State) (i : Instr) (x y : Fields) : Prop :=
  step (s.presentVector i x) = .next ((s.presentVector i x).setVy y.toPort)

/-- Two states present the same values on the ports operation `i` reads (30_encoding.md R53). -/
def SameOperands (i : Instr) (s t : State) : Prop :=
  (i.readsA = true → s.a = t.a) ∧ (i.readsF = true → s.f = t.f) ∧ (i.readsVa = true → s.va = t.va)

/-- The clock-halt bit of what an encode of the seconds answers (42_regmap_pack_unpack.md R90). -/
def Result.secondByte : Result → Byte
  | .y v => v
  | .vy v => elem v 0
  | .ok _ => 0

/-- What stands on the output ports belongs to the transaction on the input ports: it is the port the operation names
(10_state.md R18), and an encode of the seconds has its clock-halt bit 0 (42_regmap_pack_unpack.md R90). -/
def State.OutputsSettled (s : State) : Prop :=
  ∀ r i, s.out = some r → decode s.cmd = .operation i →
    r.port = i.writes ∧ (i = .pksec ∨ i = .pkdt → clockHalt r.secondByte = false)

/-- The invariant: the register store is in canonical form and the outputs belong to the inputs. -/
def State.Inv (s : State) : Prop := s.store.wf ∧ s.OutputsSettled

/-- The seven time registers hold the seven Bytes `b` in buffer order (20_memory.md R35). -/
def State.HoldsTime (p : Params) (s : State) (b : Fields) : Prop :=
  ∀ i : Fin 7, s.store.read (p.addrSec + i) = b.get i

/-- Every register of the map the predicate does not name reads in `t` as in `s`. -/
def State.SameRegistersBut (s t : State) (named : Nat → Prop) : Prop :=
  ∀ r, ¬ named r → t.store.read r = s.store.read r

/-- The transport answers success to the next `n` calls. -/
def State.TransportSucceeds (s : State) (n : Nat) : Prop :=
  ∃ rest, s.answers = List.replicate n Answer.success ++ rest

/-- The transport answers success to the next `n` calls and failure to the one after. -/
def State.TransportFailsAfter (s : State) (n : Nat) : Prop :=
  ∃ kind rest, s.answers = List.replicate n Answer.success ++ Answer.failure kind :: rest

/-- Every data write of the calls comes when the last write of ST1 before it was the clear-protect write: after a
clear-protect and before the next set-protect (70_reset_and_hazards.md R130). `unlocked` says whether the bracket is open
before the calls. -/
def bracketed (p : Params) (unlocked : Bool) : List BusCall → Bool
  | [] => true
  | .send _ (r :: v :: vs) :: rest =>
    if r = regByte p.addrSt1 then bracketed p (decide (v = p.wpClear ∧ vs = [])) rest
    else unlocked && bracketed p unlocked rest
  | .send _ [_] :: rest => bracketed p unlocked rest
  | .send _ [] :: rest => bracketed p unlocked rest
  | .receive _ _ :: rest => bracketed p unlocked rest
  | .init :: rest => bracketed p unlocked rest
  | .deinit :: rest => bracketed p unlocked rest

/-- The reply with the answers still to come left out of its state. -/
def Reply.withoutAnswers {α : Type} : Reply α → Reply α
  | .done v s => .done v { s with answers := [] }
  | .failed e s => .failed e { s with answers := [] }
  | .refused r => .refused r

/-- The state an operation of the environment leaves, unless it is refused. -/
def Reply.state? {α : Type} : Reply α → Option State
  | .done _ s => some s
  | .failed _ s => some s
  | .refused _ => none

end Sys2Proof.Machine
end

