-- ==== Sys2Proof/Certificates/Slice0/Obligations.lean ====
section
/-! DEFINITION. The statements for the provers, from the numbered rules of spec/. -/

open Sys2Proof Sys2Proof.Machine

/-! ## The command word -/

/-- Words written out from 30_encoding.md R59 and 95_test_vectors.md 2.8, at least one of each family, and reserved ones. -/
def Obligations.WrittenOutWordsDecode : Prop :=
  decode 0x00 = .operation .d2b ∧ decode 0x10 = .operation .b2d ∧ decode 0x27 = .operation (.bclr 7) ∧
  decode 0x33 = .operation (.bset 3) ∧ decode 0x41 = .operation (.nclr .hi) ∧ decode 0x50 = .operation (.nset .lo) ∧
  decode 0x61 = .operation (.nins .hi) ∧ decode 0x90 = .operation .pkdt ∧ decode 0xD0 = .operation .chkwave ∧
  decode 0x01 = .reserved .argumentZ ∧ decode 0x28 = .reserved .argumentB ∧ decode 0x42 = .reserved .argumentN ∧
  decode 0xE0 = .reserved .opcode

/-- Decode and encode agree on all fourteen operations, with every bit index and nibble select: no bit of the command word
is dropped, and each legal word has one meaning (30_encoding.md R50 to R52, R54). -/
def Obligations.DecodeInvertsEncode : Prop :=
  (∀ i, decode (encode i) = .operation i) ∧ (∀ c i, decode c = .operation i → encode i = c)

/-- 30_encoding.md R54: which operation a word selects, read off its bits; 31 words are legal, 225 are reserved. -/
def Obligations.LegalWordsSelectByOpcodeAndArgument : Prop :=
  (∀ c i, decode c = .operation i ↔
    i.opcode = c.extractLsb' 4 4 ∧
    (match i with
      | .bclr n | .bset n => c.getLsbD 3 = false ∧ n.val = (c.extractLsb' 0 3).toNat
      | .nclr sel | .nset sel | .nins sel => c.extractLsb' 1 3 = 0 ∧ (sel = .hi ↔ c.getLsbD 0 = true)
      | .d2b | .b2d | .pksec | .upsec | .pkdt | .updt | .pkwave | .chkdt | .chkwave => c.extractLsb' 0 4 = 0)) ∧
  (∀ c, decode c = .reserved .opcode ↔ 0xE ≤ (c.extractLsb' 4 4).toNat) ∧
  (List.range 256).countP (fun w => (decodeTableWord 8 w).isSome) = 31 ∧
  (List.range 256).countP (fun w => (decodeTableWord 8 w).isNone) = 225

/-- 30_encoding.md R61: a word selects a table row exactly when it decodes to that row's operation; a word that matches no
row is reserved; no word matches two rows. -/
def Obligations.TableRowsSelectWhatDecodes : Prop :=
  (∀ c, ∀ row ∈ opcodeTable, row.selects c = true ↔ ∃ i, decode c = .operation i ∧ i.mnemonic = row.mnemonic) ∧
  (∀ c, (∃ why, decode c = .reserved why) ↔ ∀ row ∈ opcodeTable, row.selects c = false) ∧
  (∀ c, ∀ row ∈ opcodeTable, ∀ row' ∈ opcodeTable, row.selects c = true → row'.selects c = true → row = row')

/-- A step runs the decoded operation; on a reserved word the model refuses (00_scope.md R6, 30_encoding.md R54, R56). -/
def Obligations.StepRunsTheDecodedOperation : Prop :=
  (∀ s : State, ∀ i, decode s.cmd = .operation i → step s = exec i s) ∧
  (∀ s : State, ∀ i, s.cmd = encode i → step s = exec i s) ∧
  (∀ s : State, ∀ why, decode s.cmd = .reserved why → step s = .refused (.reservedCommand why))

/-! ## The block as a whole -/

/-- Every operation (D2B, B2D, BCLR, BSET, NCLR, NSET, NINS, PKSEC, UPSEC, PKDT, UPDT, PKWAVE, CHKDT, CHKWAVE) completes in
every state, defines exactly the port R53 names for it, and changes nothing else: no input port, no Byte of the register
store, no Handler, no transport call. -/
def Obligations.EveryOperationCompletesOnItsNamedPort : Prop :=
  ∀ i s, ∃ r, exec i s = .next { s with out := some r } ∧ r.port = i.writes

/-- 10_state.md R18 with 30_encoding.md R53: an input port an operation does not name has no effect on its results. -/
def Obligations.UnnamedInputPortsHaveNoEffect : Prop :=
  ∀ i s t, SameOperands i s t →
    ∃ r, exec i s = .next { s with out := some r } ∧ exec i t = .next { t with out := some r }

/-- 10_state.md R31: whatever came before, two transactions with equal command word and operands give equal results. -/
def Obligations.EqualTransactionsGiveEqualResults : Prop :=
  ∀ (s t : State) (x : Transaction),
    (∃ r, step (s.present x) = .next { s.present x with out := some r } ∧
      step (t.present x) = .next { t.present x with out := some r }) ∨
    (∃ why, step (s.present x) = .refused (.reservedCommand why) ∧ step (t.present x) = .refused (.reservedCommand why))

/-- 20_memory.md R48: two transactions commute: in either order, or on two copies of the block, they give the same pair of
results. -/
def Obligations.TransactionsCommute : Prop :=
  ∀ (s s' : State) (x y : Transaction) (sx sxy : State),
    step (s.present x) = .next sx → step (sx.present y) = .next sxy →
    ∃ sy syx s'y, step (s.present y) = .next sy ∧ step (sy.present x) = .next syx ∧ step (s'.present y) = .next s'y ∧
      sy.out = sxy.out ∧ syx.out = sx.out ∧ s'y.out = sxy.out

/-- Every step keeps the invariant: the register store stays in canonical form, what stands on the output ports belongs to
the transaction on the input ports, and an encode of the seconds has its clock-halt bit 0. The canonical form is the model's (log 7). -/
def Obligations.StepKeepsInvariant : Prop :=
  ∀ s t : State, s.Inv → step s = .next t → t.Inv

/-- The invariant holds before the first transaction. The canonical form is the model's (log 7). -/
def Obligations.ResetMeetsInvariant : Prop := State.reset.Inv

/-! ## The BCD converters -/

/-- 40_bcd_converters.md R64, in and out of the domain. The out-of-domain value is the open function OOD_D2B (R7, R70). -/
def Obligations.DecimalToBcdPacksDigits : Prop :=
  encode .d2b = 0x00 ∧
  ∀ s : State, ∃ y, exec .d2b s = .next (s.setY y) ∧
    (s.a.toNat ≤ 99 →
      (hiNibble y).toNat = s.a.toNat / 10 ∧ (loNibble y).toNat = s.a.toNat % 10 ∧
      y.toNat = s.a.toNat + 6 * (s.a.toNat / 10)) ∧
    (99 < s.a.toNat → y = Config.oodD2B s.a)

/-- 40_bcd_converters.md R66, in and out of the domain. The out-of-domain value is the open function OOD_B2D (R7, R70). -/
def Obligations.BcdToDecimalReadsDigits : Prop :=
  encode .b2d = 0x10 ∧
  ∀ s : State, ∃ y, exec .b2d s = .next (s.setY y) ∧
    ((hiNibble s.a).toNat ≤ 9 ∧ (loNibble s.a).toNat ≤ 9 →
      y.toNat = 10 * (hiNibble s.a).toNat + (loNibble s.a).toNat ∧ y.toNat = s.a.toNat - 6 * (hiNibble s.a).toNat) ∧
    (9 < (hiNibble s.a).toNat ∨ 9 < (loNibble s.a).toNat → y = Config.oodB2D s.a)

/-- 40_bcd_converters.md R65, its five items, of the answers of D2B. -/
def Obligations.DecimalToBcdOnItsDomain : Prop :=
  ∀ (s : State) (f : Nibble),
    (∀ v : Byte, v.toNat ≤ 99 →
      ∃ b, AnswersY s .d2b v f b ∧ (hiNibble b).toNat ≤ 9 ∧ (loNibble b).toNat ≤ 9 ∧
        (b.getLsbD 7 = true ↔ 80 ≤ v.toNat) ∧ Nat.digits 16 b.toNat = Nat.digits 10 v.toNat) ∧
    (∀ v w b c : Byte, v.toNat < w.toNat → w.toNat ≤ 99 → AnswersY s .d2b v f b → AnswersY s .d2b w f c →
      b.toNat < c.toNat) ∧
    (∀ v w b : Byte, v.toNat ≤ 99 → w.toNat ≤ 99 → AnswersY s .d2b v f b → AnswersY s .d2b w f b → v = w) ∧
    (∀ b : Byte, (hiNibble b).toNat ≤ 9 → (loNibble b).toNat ≤ 9 → ∃ v, v.toNat ≤ 99 ∧ AnswersY s .d2b v f b)

/-- 40_bcd_converters.md R67: the BCD law, each converter run as a transaction in any state. -/
def Obligations.BcdLaw : Prop :=
  ∀ (s t : State) (f : Nibble) (v : Byte), v.toNat ≤ 99 → ∃ b, AnswersY s .d2b v f b ∧ AnswersY t .b2d b f v

/-- 40_bcd_converters.md R68: the converse law. -/
def Obligations.ConverseBcdLaw : Prop :=
  ∀ (s t : State) (f : Nibble) (b : Byte), (hiNibble b).toNat ≤ 9 ∧ (loNibble b).toNat ≤ 9 →
    ∃ v, AnswersY s .b2d b f v ∧ AnswersY t .d2b v f b

/-! ## The bit-field helpers -/

/-- 41_bitfield_helpers.md R72 and R73: BCLR and BSET, bit by bit. -/
def Obligations.SingleBitHelpersChangeOneBit : Prop :=
  ∀ (n : Fin 8) (s : State),
    encode (.bclr n) = 0x20 + BitVec.ofNat 8 n ∧ encode (.bset n) = 0x30 + BitVec.ofNat 8 n ∧
    (∃ y, exec (.bclr n) s = .next (s.setY y) ∧
      ∀ i, i < 8 → y.getLsbD i = if i = n.val then false else s.a.getLsbD i) ∧
    (∃ y, exec (.bset n) s = .next (s.setY y) ∧
      ∀ i, i < 8 → y.getLsbD i = if i = n.val then true else s.a.getLsbD i)

/-- 41_bitfield_helpers.md R74, R75 and R76: NCLR, NSET and NINS, nibble by nibble. -/
def Obligations.NibbleHelpersChangeOneNibble : Prop :=
  ∀ (sel : NibbleSel) (s : State),
    encode (.nclr .lo) = 0x40 ∧ encode (.nclr .hi) = 0x41 ∧ encode (.nset .lo) = 0x50 ∧ encode (.nset .hi) = 0x51 ∧
    encode (.nins .lo) = 0x60 ∧ encode (.nins .hi) = 0x61 ∧
    (∃ y, exec (.nclr sel) s = .next (s.setY y) ∧
      selNibble sel y = 0 ∧ selNibble sel.other y = selNibble sel.other s.a) ∧
    (∃ y, exec (.nset sel) s = .next (s.setY y) ∧
      selNibble sel y = selNibble sel s.a ||| s.f ∧ selNibble sel.other y = selNibble sel.other s.a) ∧
    (∃ y, exec (.nins sel) s = .next (s.setY y) ∧
      selNibble sel y = s.f ∧ selNibble sel.other y = selNibble sel.other s.a)

/-- 41_bitfield_helpers.md R77 items 1, 2 and 3: locality, idempotence, and the last one wins on one bit. -/
def Obligations.BitFieldHelpersAreLocalAndIdempotent : Prop :=
  ∀ (s : State) (i : Instr) (a : Byte) (f : Nibble), i.isHelper = true →
    (∃ y, AnswersY s i a f y ∧ AnswersY s i y f y ∧ y &&& ~~~i.touches = a &&& ~~~i.touches) ∧
    (∀ n, ∃ y z, AnswersY s (.bclr n) a f y ∧ AnswersY s (.bset n) y f z ∧ AnswersY s (.bset n) a f z ∧
      AnswersY s (.bclr n) z f y)

/-- 41_bitfield_helpers.md R77 items 4 and 7: composition, NSET accumulates, NINS overwrites. -/
def Obligations.NibbleHelpersCompose : Prop :=
  ∀ (s : State) (sel : NibbleSel) (a : Byte) (f g : Nibble),
    (∃ y z, AnswersY s (.nclr sel) a f y ∧ AnswersY s (.nset sel) y f z ∧ AnswersY s (.nins sel) a f z) ∧
    (∃ y z, AnswersY s (.nset sel) a f y ∧ AnswersY s (.nset sel) y g z ∧ AnswersY s (.nset sel) a (f ||| g) z) ∧
    (∃ y z, AnswersY s (.nins sel) a f y ∧ AnswersY s (.nins sel) y g z ∧ AnswersY s (.nins sel) a g z)

/-- 41_bitfield_helpers.md R77 item 6: helpers on disjoint bits commute; so do two ORs, and two ANDs. -/
def Obligations.BitFieldHelpersCommute : Prop :=
  ∀ (s : State) (i j : Instr) (a : Byte) (f g : Nibble), i.isHelper = true → j.isHelper = true →
    i.touches &&& j.touches = 0 ∨ (i.isOr ∧ j.isOr) ∨ (i.isAnd ∧ j.isAnd) →
    ∃ y z w, AnswersY s i a f y ∧ AnswersY s j y g z ∧ AnswersY s j a g w ∧ AnswersY s i w f z

/-- 41_bitfield_helpers.md R77 item 8: NCLR of the low nibble is BCLR of bits 0 to 3 (in any order, by item 6), and NSET of
0xF is BSET of the four bits of the nibble. -/
def Obligations.NibbleHelpersAreFourBitHelpers : Prop :=
  ∀ (s : State) (a : Byte) (f : Nibble),
    (∃ y0 y1 y2 y, AnswersY s (.bclr 0) a f y0 ∧ AnswersY s (.bclr 1) y0 f y1 ∧ AnswersY s (.bclr 2) y1 f y2 ∧
      AnswersY s (.bclr 3) y2 f y ∧ AnswersY s (.nclr .lo) a f y) ∧
    (∃ y0 y1 y2 y, AnswersY s (.bset 0) a f y0 ∧ AnswersY s (.bset 1) y0 f y1 ∧ AnswersY s (.bset 2) y1 f y2 ∧
      AnswersY s (.bset 3) y2 f y ∧ AnswersY s (.nset .lo) a 0xF y) ∧
    (∃ y0 y1 y2 y, AnswersY s (.bset 4) a f y0 ∧ AnswersY s (.bset 5) y0 f y1 ∧ AnswersY s (.bset 6) y1 f y2 ∧
      AnswersY s (.bset 7) y2 f y ∧ AnswersY s (.nset .hi) a 0xF y)

/-! ## The register map -/

/-- 42_regmap_pack_unpack.md R82: PKSEC is D2B with bit 7 forced to 0, on every operand. -/
def Obligations.PackSecondForcesClockHaltClear : Prop :=
  encode .pksec = 0x70 ∧
  ∀ s : State, ∃ d y, AnswersY s .d2b s.a s.f d ∧ exec .pksec s = .next (s.setY y) ∧
    y.getLsbD 7 = false ∧ (∀ i, i < 7 → y.getLsbD i = d.getLsbD i) ∧
    (s.a.toNat ≤ 59 → y = d) ∧
    (80 ≤ s.a.toNat → s.a.toNat ≤ 99 → AnswersY s .d2b (s.a - 80) s.f y) ∧
    (100 ≤ s.a.toNat → y = Config.oodD2B s.a &&& 0x7F)

/-- 42_regmap_pack_unpack.md R83: UPSEC masks the clock-halt bit off and decodes, without a range check. -/
def Obligations.UnpackSecondIgnoresClockHalt : Prop :=
  encode .upsec = 0x80 ∧
  ∀ s : State, ∃ y, exec .upsec s = .next (s.setY y) ∧
    AnswersY s .b2d (s.a &&& 0x7F) s.f y ∧ AnswersY s .upsec (s.a ||| 0x80) s.f y ∧
    AnswersY s .upsec (s.a &&& 0x7F) s.f y ∧
    ((loNibble s.a).toNat ≤ 9 → y.toNat = 10 * ((hiNibble s.a).toNat % 8) + (loNibble s.a).toNat) ∧
    (9 < (loNibble s.a).toNat → y = Config.oodB2D (s.a &&& 0x7F))

/-- 42_regmap_pack_unpack.md R84 and R85: PKDT and UPDT, element by element, only element 0 masked; a DateTime is encoded
and decoded without a check. -/
def Obligations.VectorOperationsWorkElementwise : Prop :=
  encode .pkdt = 0x90 ∧ encode .updt = 0xA0 ∧
  ∀ s : State,
    (∃ v, exec .pkdt s = .next (s.setVy v) ∧ elem v 0 = d2b (elem s.va 0) &&& 0x7F ∧
      ∀ i, 1 ≤ i → i ≤ 6 → elem v i = d2b (elem s.va i)) ∧
    (∃ v, exec .updt s = .next (s.setVy v) ∧ elem v 0 = b2d (elem s.va 0 &&& 0x7F) ∧
      ∀ i, 1 ≤ i → i ≤ 6 → elem v i = b2d (elem s.va i))

/-- 42_regmap_pack_unpack.md R95: the vector operations in terms of scalar ones. -/
def Obligations.VectorOperationsAreScalarOnes : Prop :=
  ∀ (s : State) (f : Nibble),
    (∀ x : Fields, ∃ y, AnswersVy s .pkdt x y ∧ AnswersY s .pksec (x.get 0) f (y.get 0) ∧
      ∀ i, i ≠ 0 → AnswersY s .d2b (x.get i) f (y.get i)) ∧
    (∀ b : Fields, ∃ y, AnswersVy s .updt b y ∧ AnswersY s .upsec (b.get 0) f (y.get 0) ∧
      ∀ i, i ≠ 0 → AnswersY s .b2d (b.get i) f (y.get i)) ∧
    (∀ a : Byte, ∃ d y, AnswersY s .d2b a f d ∧ AnswersY s (.bclr 7) d f y ∧ AnswersY s .pksec a f y) ∧
    (∀ a : Byte, ∃ c y, AnswersY s (.bclr 7) a f c ∧ AnswersY s .b2d c f y ∧ AnswersY s .upsec a f y)

/-- 42_regmap_pack_unpack.md R89: a valid DateTime survives encode and decode, and how far the law extends. -/
def Obligations.DateTimeRoundTrip : Prop :=
  ∀ (s t : State) (x : Fields),
    (validDateTime x = true → ∃ b, AnswersVy s .pkdt x b ∧ AnswersVy t .updt b x) ∧
    ((∀ i, (x.get i).toNat ≤ 99) → (x.get 0).toNat ≤ 79 → ∃ b, AnswersVy s .pkdt x b ∧ AnswersVy t .updt b x) ∧
    ((∀ i, (x.get i).toNat ≤ 99) → 80 ≤ (x.get 0).toNat →
      ∃ b, AnswersVy s .pkdt x b ∧ AnswersVy t .updt b { x with second := x.second - 80 })

/-- 42_regmap_pack_unpack.md R90: the clock-halt bit is 0 in every encode, out-of-domain operands included. -/
def Obligations.EncodedClockHaltIsZero : Prop :=
  (∀ (s : State) (a : Byte) (f : Nibble), ∃ y, AnswersY s .pksec a f y ∧ y.getLsbD 7 = false) ∧
  (∀ (s : State) (x : Fields), ∃ y, AnswersVy s .pkdt x y ∧ (y.get 0).getLsbD 7 = false)

/-- 42_regmap_pack_unpack.md R91: the converse round trip. -/
def Obligations.BufferRoundTrip : Prop :=
  ∀ (s t : State) (b : Fields),
    (hiNibble (b.second &&& 0x7F)).toNat ≤ 9 ∧ (loNibble (b.second &&& 0x7F)).toNat ≤ 9 →
    (∀ i, i ≠ 0 → (hiNibble (b.get i)).toNat ≤ 9 ∧ (loNibble (b.get i)).toNat ≤ 9) →
    ∃ x, AnswersVy s .updt b x ∧ AnswersVy t .pkdt x { b with second := b.second &&& 0x7F }

/-- 42_regmap_pack_unpack.md R86: PKWAVE, and the two other ways to form the same Byte. -/
def Obligations.PackWaveReplacesLowNibble : Prop :=
  encode .pkwave = 0xB0 ∧
  ∀ s : State, ∃ y c, exec .pkwave s = .next (s.setY y) ∧ loNibble y = s.f ∧ hiNibble y = hiNibble s.a ∧
    AnswersY s (.nins .lo) s.a s.f y ∧ AnswersY s (.nclr .lo) s.a s.f c ∧ AnswersY s (.nset .lo) c s.f y

/-- 42_regmap_pack_unpack.md R92: the wave-field laws. -/
def Obligations.WaveFieldLaws : Prop :=
  ∀ (s : State) (a : Byte) (f g : Nibble),
    (∃ y z, AnswersY s .pkwave a f y ∧ loNibble y = f ∧ hiNibble y = hiNibble a ∧
      AnswersY s .pkwave y g z ∧ AnswersY s .pkwave a g z) ∧
    AnswersY s .pkwave a (loNibble a) a

/-- 42_regmap_pack_unpack.md R87 with 10_state.md R21: the verdict of CHKDT; after `ok = 1` no element leaves the domain of
D2B. -/
def Obligations.CheckDateTimeVerdict : Prop :=
  encode .chkdt = 0xC0 ∧
  ∀ s : State, ∃ v, exec .chkdt s = .next (s.setOk v) ∧
    (v = true ↔
      (elem s.va 0).toNat ≤ 59 ∧ (elem s.va 1).toNat ≤ 59 ∧ (elem s.va 2).toNat ≤ 23 ∧
      1 ≤ (elem s.va 3).toNat ∧ (elem s.va 3).toNat ≤ 7 ∧ 1 ≤ (elem s.va 4).toNat ∧ (elem s.va 4).toNat ≤ 31 ∧
      1 ≤ (elem s.va 5).toNat ∧ (elem s.va 5).toNat ≤ 12 ∧ (elem s.va 6).toNat ≤ 99) ∧
    (v = true → ∀ i : Fin 7, (elem s.va i).toNat ≤ 99)

/-- 42_regmap_pack_unpack.md R88 with 10_state.md R23: the verdict of CHKWAVE. -/
def Obligations.CheckWaveVerdict : Prop :=
  encode .chkwave = 0xD0 ∧
  ∀ s : State, ∃ v, exec .chkwave s = .next (s.setOk v) ∧
    (v = true ↔ s.a.toNat ≤ 15) ∧ (v = true ↔ hiNibble s.a = 0)

/-- 42_regmap_pack_unpack.md R87, corner cases: after `ok = 1` PKDT on the same DateTime never leaves the domain of D2B, so
every nibble of the buffer is a digit. -/
def Obligations.CheckedDateTimeEncodesToDigits : Prop :=
  ∀ (s t : State) (x : Fields), step (s.presentVector .chkdt x) = .next ((s.presentVector .chkdt x).setOk true) →
    ∃ b, AnswersVy t .pkdt x b ∧ ∀ i, (x.get i).toNat ≤ 99 ∧ (hiNibble (b.get i)).toNat ≤ 9 ∧ (loNibble (b.get i)).toNat ≤ 9

/-! ## Assembly lines -/

/-- 30_encoding.md R59: a well-formed line presents its operation's command word and the operand values it writes. What
counts as ill formed, and that an ill-formed line presents nothing, is the model's choice (log 24): R59 says nothing of
ill-formed lines. -/
def Obligations.AssemblyLinePresentsItsTransaction : Prop :=
  ∀ (s : State) (l : AsmLine),
    (l.wf = true → ∃ i t, l.op.expand = some i ∧ s.presentLine l = some t ∧ decode t.cmd = .operation i ∧
      (∀ v, l.a = some v → t.a.toNat = v) ∧ (∀ v, l.f = some v → t.f.toNat = v) ∧
      (∀ xs, l.va = some xs → ∀ k, k < 7 → xs[k]? = some (elem t.va k).toNat)) ∧
    (l.wf = false → s.presentLine l = none)

/-- 30_encoding.md R60: each pseudo-operation is an exact abbreviation of one operation. That unwritten ports keep their values is the
model's choice (log 24). -/
def Obligations.PseudoOperationsAbbreviate : Prop :=
  (∀ (s : State) (r : Nat), r < 256 →
    s.presentLine { op := .chclr, a := some r } = some { s with cmd := 0x27, a := BitVec.ofNat 8 r } ∧
    s.presentLine { op := .bclr 7, a := some r } = some { s with cmd := 0x27, a := BitVec.ofNat 8 r } ∧
    s.presentLine { op := .chset, a := some r } = some { s with cmd := 0x37, a := BitVec.ofNat 8 r } ∧
    s.presentLine { op := .bset 7, a := some r } = some { s with cmd := 0x37, a := BitVec.ofNat 8 r } ∧
    s.presentLine { op := .waveclr, a := some r } = some { s with cmd := 0x40, a := BitVec.ofNat 8 r } ∧
    s.presentLine { op := .nclr .lo, a := some r } = some { s with cmd := 0x40, a := BitVec.ofNat 8 r }) ∧
  (∀ (s : State) (r m : Nat), r < 256 → m < 16 →
    s.presentLine { op := .waveset, a := some r, f := some m } =
      some { s with cmd := 0x50, a := BitVec.ofNat 8 r, f := BitVec.ofNat 4 m } ∧
    s.presentLine { op := .nset .lo, a := some r, f := some m } =
      some { s with cmd := 0x50, a := BitVec.ofNat 8 r, f := BitVec.ofNat 4 m })

/-! ## The environment -/

/-- 60_exceptions.md R102: Init. That it opens the lifecycle (`ready`) is the model's bookkeeping (log 12). -/
def Obligations.InitValidatesBindings : Prop :=
  ∀ s : State,
    (s.handler.sendBound = false ∨ s.handler.receiveBound = false →
      engineInit s = .failed .invalidParameter { s with ready := false }) ∧
    (s.handler.sendBound = true → s.handler.receiveBound = true →
      (s.handler.initHook = false → engineInit s = .done () { s with ready := true }) ∧
      (∀ rest, s.handler.initHook = true → s.answers = .success :: rest →
        engineInit s = .done () { s with ready := true, calls := s.calls ++ [.init], answers := rest }) ∧
      (∀ kind rest, s.handler.initHook = true → s.answers = .failure kind :: rest →
        engineInit s = .failed .transportFailure { s with ready := false, calls := s.calls ++ [.init], answers := rest }))

/-- 60_exceptions.md R103: DeInit. That it closes the lifecycle (`ready`) is the model's bookkeeping (log 12). -/
def Obligations.DeInitRunsItsHook : Prop :=
  ∀ s : State,
    (s.handler.deinitHook = false → engineDeInit s = .done () { s with ready := false }) ∧
    (∀ rest, s.handler.deinitHook = true → s.answers = .success :: rest →
      engineDeInit s = .done () { s with ready := false, calls := s.calls ++ [.deinit], answers := rest }) ∧
    (∀ kind rest, s.handler.deinitHook = true → s.answers = .failure kind :: rest →
      engineDeInit s = .failed .transportFailure { s with ready := false, calls := s.calls ++ [.deinit], answers := rest })

/-- 60_exceptions.md R99: SetDateTime and SetOutputWave fail with InvalidParameter exactly when the block's check gives
`ok = 0`, and then issue no transport call and leave the peripheral alone. The lifecycle premise is
log 12. -/
def Obligations.InvalidParameterExactlyOnFailedCheck : Prop :=
  ∀ (p : Params) (s : State), s.ready = true →
    (∀ x : Fields,
      ((∃ t, setDateTime p x s = .failed .invalidParameter t) ↔
        step (s.presentVector .chkdt x) = .next ((s.presentVector .chkdt x).setOk false)) ∧
      ∀ t, setDateTime p x s = .failed .invalidParameter t →
        t.calls = s.calls ∧ t.answers = s.answers ∧ t.store = s.store ∧ t.pointer = s.pointer) ∧
    (∀ m : Byte,
      ((∃ t, setOutputWave p m s = .failed .invalidParameter t) ↔
        step (s.presentScalar .chkwave m s.f) = .next ((s.presentScalar .chkwave m s.f).setOk false)) ∧
      ∀ t, setOutputWave p m s = .failed .invalidParameter t →
        t.calls = s.calls ∧ t.answers = s.answers ∧ t.store = s.store ∧ t.pointer = s.pointer)

/-- 60_exceptions.md R104, R108 and R112: when all calls succeed and the buffer holds eight Bytes, SetDateTime issues exactly
clear-protect, one seven-byte burst at the seconds register, set-protect. The lifecycle premise is log 12, the
address Byte log 16. -/
def Obligations.SetDateTimeCallSequence : Prop :=
  ∀ (p : Params) (x : Fields) (s : State), p.wf → 8 ≤ p.bufCap → s.ready = true → validDateTime x = true →
    s.TransportSucceeds 3 →
    ∃ t b, AnswersVy s .pkdt x b ∧ setDateTime p x s = .done () t ∧
      t.calls = s.calls ++
        [.send 0xD0 [BitVec.ofNat 8 p.addrSt1, p.wpClear],
         .send 0xD0 [BitVec.ofNat 8 p.addrSec, b.second, b.minute, b.hour, b.weekDay, b.day, b.month, b.year],
         .send 0xD0 [BitVec.ofNat 8 p.addrSt1, p.wpSet]]

/-- 60_exceptions.md R104 with 20_memory.md R35: what a successful SetDateTime leaves, for every buffer size: the encoded
Bytes in the time registers, WP_SET_BYTE in ST1, every other register, the Handler and the lifecycle unchanged. The store keeps what is written
(log 9), the clear-protect write too (log 10). The lifecycle premise is log 12. -/
def Obligations.SetDateTimeLeavesEncodedTime : Prop :=
  ∀ (p : Params) (x : Fields) (s : State), p.wf → s.ready = true → validDateTime x = true → s.TransportSucceeds 9 →
    ∃ t b, AnswersVy s .pkdt x b ∧ setDateTime p x s = .done () t ∧ t.HoldsTime p b ∧
      t.store.read p.addrSt1 = p.wpSet ∧ s.SameRegistersBut t (fun r => p.inTimeBlock r ∨ r = p.addrSt1) ∧
      t.handler = s.handler ∧ t.ready = true

/-- 60_exceptions.md R105: GetDateTime returns the decode of the seven time registers, whatever they hold, after one pointer
send and one receive, and writes no register. The store does not count time (log 9). The lifecycle premise is log 12, the
address Bytes are log 16. -/
def Obligations.GetDateTimeDecodesTimeRegisters : Prop :=
  ∀ (p : Params) (s : State), p.wf → s.ready = true → s.TransportSucceeds 2 →
    ∃ t x b, s.HoldsTime p b ∧ AnswersVy s .updt b x ∧ getDateTime p s = .done x t ∧ t.store = s.store ∧
      t.calls = s.calls ++ [.send 0xD0 [BitVec.ofNat 8 p.addrSec], .receive 0xD1 7]

/-- 60_exceptions.md R105, on every outcome: GetDateTime leaves the register store and the Handler untouched, and it can
only fail with TransportFailure, which it does, inside the lifecycle (log 12), when the pointer send or the receive fails. -/
def Obligations.GetDateTimeLeavesStoreUntouched : Prop :=
  ∀ (p : Params) (s : State),
    (∀ t, (getDateTime p s).state? = some t → t.store = s.store ∧ t.handler = s.handler) ∧
    (∀ e t, getDateTime p s = .failed e t → e = .transportFailure) ∧
    (∀ n, s.ready = true → n < 2 → s.TransportFailsAfter n → ∃ t, getDateTime p s = .failed .transportFailure t)

/-- The end-to-end scenario of 95_test_vectors.md S8, for every valid DateTime, every parameter and every buffer size:
SetDateTime then GetDateTime returns the same DateTime. The register store keeps what is written and does not count time:
the model's premise (log 9). The lifecycle premise is log 12. -/
def Obligations.SetThenGetReturnsSameDateTime : Prop :=
  ∀ (p : Params) (x : Fields) (s : State), p.wf → s.ready = true → validDateTime x = true → s.TransportSucceeds 11 →
    ∃ t u, setDateTime p x s = .done () t ∧ getDateTime p t = .done x u ∧ u.store = t.store

/-- 60_exceptions.md R106: a successful SetOutputWave puts the mode in the low nibble of INT, keeps its high nibble, leaves
WP_SET_BYTE in ST1 and every other register alone, and issues exactly these seven calls. The store keeps what is written
(log 9), the clear-protect write too (log 10). The lifecycle premise is log 12, the address Bytes are log 16. -/
def Obligations.SetOutputWaveReplacesWaveField : Prop :=
  ∀ (p : Params) (m : Byte) (s : State), p.wf → s.ready = true → m.toNat ≤ 15 → s.TransportSucceeds 7 →
    ∃ t w, setOutputWave p m s = .done () t ∧
      (loNibble w).toNat = m.toNat ∧ hiNibble w = hiNibble (s.store.read p.addrInt) ∧
      t.store.read p.addrInt = w ∧ t.store.read p.addrSt1 = p.wpSet ∧
      s.SameRegistersBut t (fun r => r = p.addrInt ∨ r = p.addrSt1) ∧
      t.calls = s.calls ++
        [.send 0xD0 [BitVec.ofNat 8 p.addrInt], .receive 0xD1 1,
         .send 0xD0 [BitVec.ofNat 8 p.addrSt1, p.wpClear], .send 0xD0 [BitVec.ofNat 8 p.addrInt, w],
         .send 0xD0 [BitVec.ofNat 8 p.addrSt1, p.wpSet],
         .send 0xD0 [BitVec.ofNat 8 p.addrInt], .receive 0xD1 1]

/-- 60_exceptions.md R110: the burst write through a buffer of any size from 2 is `ceil(N / D)` transactions, chunk `j` at
register `r + j*D`, whose payloads together are the data; the store ends as one unchunked write would leave it. The write
stays inside the map and the bracket, and does not touch ST1. That a register changes only when it is written, over all the
exchanges, is the model's choice (log 9); the bracket premise is log 10, the address Byte log 16. -/
def Obligations.BurstWriteRefinesOneWrite : Prop :=
  ∀ (p : Params) (r : Nat) (data : List Byte) (s : State), 2 ≤ p.bufCap → r + data.length ≤ mapSize →
    s.unprotected p → (p.addrSt1 < r ∨ r + data.length ≤ p.addrSt1) → s.TransportSucceeds data.length →
    ∃ (cs : List (List Byte)) (t : State), burstWrite p r data s = .done () t ∧
      cs.flatten = data ∧ cs.length = (data.length + (p.bufCap - 1) - 1) / (p.bufCap - 1) ∧
      (∀ j c, cs[j]? = some c → c.length = min (p.bufCap - 1) (data.length - j * (p.bufCap - 1))) ∧
      t.calls = s.calls ++
        cs.mapIdx (fun j c => .send 0xD0 (BitVec.ofNat 8 (r + j * (p.bufCap - 1)) :: c)) ∧
      (∀ k, k < data.length → data[k]? = some (t.store.read (r + k))) ∧
      s.SameRegistersBut t (fun k => r ≤ k ∧ k < r + data.length)

/-- 60_exceptions.md R110, last sentence, and R114: a chunk that fails leaves the earlier chunks written and everything else
alone, and nothing is sent after it. That the failing chunk itself writes nothing is the model's
reading of R117 (log 14), that a register changes only when it is written the model's choice (log 9); the bracket premise is
log 10. -/
def Obligations.FailedChunkKeepsEarlierChunks : Prop :=
  ∀ (p : Params) (r : Nat) (data : List Byte) (s : State) (k : Nat), 2 ≤ p.bufCap → r + data.length ≤ mapSize →
    s.unprotected p → (p.addrSt1 < r ∨ r + data.length ≤ p.addrSt1) → k * (p.bufCap - 1) < data.length →
    s.TransportFailsAfter k →
    ∃ t, burstWrite p r data s = .failed .transportFailure t ∧ t.calls.length = s.calls.length + k + 1 ∧
      (∀ i, i < k * (p.bufCap - 1) → data[i]? = some (t.store.read (r + i))) ∧
      s.SameRegistersBut t (fun i => r ≤ i ∧ i < r + k * (p.bufCap - 1))

/-- 60_exceptions.md R109: when the data write fails, the engine returns the TransportFailure at once, or, with
REPROTECT_ON_FAILURE, after one set-protect write whose outcome it ignores. For SetDateTime this is the first chunk failing;
ReprotectAfterAnyFailedChunk says the same of every chunk. When exactly the engine re-protects is log 22, the lifecycle
premise log 12, the address Byte 0xD0 (R112) log 16. -/
def Obligations.ReprotectOnlyWhenConfigured : Prop :=
  ∀ (p : Params) (s : State), p.wf → s.ready = true →
    (∀ x : Fields, validDateTime x = true → s.TransportFailsAfter 1 →
      ∃ t, setDateTime p x s = .failed .transportFailure t ∧
        (p.reprotectOnFailure = false → t.calls.length = s.calls.length + 2) ∧
        (p.reprotectOnFailure = true → t.calls.length = s.calls.length + 3 ∧
          t.calls.getLast? = some (.send 0xD0 [BitVec.ofNat 8 p.addrSt1, p.wpSet]))) ∧
    (∀ m : Byte, m.toNat ≤ 15 → s.TransportFailsAfter 3 →
      ∃ t, setOutputWave p m s = .failed .transportFailure t ∧
        (p.reprotectOnFailure = false → t.calls.length = s.calls.length + 4) ∧
        (p.reprotectOnFailure = true → t.calls.length = s.calls.length + 5 ∧
          t.calls.getLast? = some (.send 0xD0 [BitVec.ofNat 8 p.addrSt1, p.wpSet])))

/-- 60_exceptions.md R114, R116 and R117: the first failing call ends the operation with TransportFailure, and exactly the
calls before it were completed (no re-protection configured). The lifecycle premise is log 12. -/
def Obligations.FirstFailingCallEndsOperation : Prop :=
  ∀ (p : Params) (s : State) (k : Nat), p.wf → p.reprotectOnFailure = false → s.ready = true → s.TransportFailsAfter k →
    (k < 2 → ∃ t, getDateTime p s = .failed .transportFailure t ∧ t.calls.length = s.calls.length + k + 1) ∧
    (∀ m : Byte, m.toNat ≤ 15 → k < 7 →
      ∃ t, setOutputWave p m s = .failed .transportFailure t ∧ t.calls.length = s.calls.length + k + 1) ∧
    (∀ x : Fields, validDateTime x = true → k < 2 + (7 + (p.bufCap - 1) - 1) / (p.bufCap - 1) →
      ∃ t, setDateTime p x s = .failed .transportFailure t ∧ t.calls.length = s.calls.length + k + 1)

/-- With well-formed parameters, inside the lifecycle, the engine's operations are never refused, whatever the transport
answers: every access they make has a meaning. What would be refused is log 10,
log 11 and log 12. -/
def Obligations.EngineIsNeverRefused : Prop :=
  ∀ (p : Params) (s : State), p.wf → s.ready = true →
    (∀ x r, setDateTime p x s ≠ .refused r) ∧ (∀ r, getDateTime p s ≠ .refused r) ∧ (∀ m r, setOutputWave p m s ≠ .refused r)

/-- 70_reset_and_hazards.md R130: whatever the transport answers, SetDateTime and SetOutputWave issue a data write only after
a clear-protect write of ST1, and before any set-protect write that follows it. The lifecycle premise is log 12. -/
def Obligations.DataWritesAreBracketed : Prop :=
  ∀ (p : Params) (s t : State), p.wf → s.ready = true →
    ((∃ x, (setDateTime p x s).state? = some t) ∨ (∃ m, (setOutputWave p m s).state? = some t)) →
    ∃ new, t.calls = s.calls ++ new ∧ bracketed p false new = true

/-- Each of the environment's five operations keeps the invariant, whatever the transport answers. The canonical form is the model's
(log 7). -/
def Obligations.EngineKeepsInvariant : Prop :=
  ∀ (p : Params) (s t : State), s.Inv →
    ((engineInit s).state? = some t ∨ (engineDeInit s).state? = some t ∨ (∃ x, (setDateTime p x s).state? = some t) ∨
      (getDateTime p s).state? = some t ∨ (∃ m, (setOutputWave p m s).state? = some t)) →
    t.Inv

/-- 60_exceptions.md R111: the core treats every `failure(kind)` alike: two answer lists that differ in kinds only give the
same outcome, the same calls and the same registers. That a kind is a number is log 13. -/
def Obligations.FailureKindsAreTreatedAlike : Prop :=
  ∀ (p : Params) (s : State) (xs ys : List Answer), xs.map Answer.isSuccess = ys.map Answer.isSuccess →
    (∀ x, (setDateTime p x { s with answers := xs }).withoutAnswers = (setDateTime p x { s with answers := ys }).withoutAnswers) ∧
    (getDateTime p { s with answers := xs }).withoutAnswers = (getDateTime p { s with answers := ys }).withoutAnswers ∧
    (∀ m, (setOutputWave p m { s with answers := xs }).withoutAnswers =
      (setOutputWave p m { s with answers := ys }).withoutAnswers) ∧
    (engineInit { s with answers := xs }).withoutAnswers = (engineInit { s with answers := ys }).withoutAnswers ∧
    (engineDeInit { s with answers := xs }).withoutAnswers = (engineDeInit { s with answers := ys }).withoutAnswers

/-- What the spec gives no meaning to is refused by name (93 U13, U14): the engine's operations outside the lifecycle, an
access past the map (log 11), a data write outside the bracket. That ST1 holding WP_CLEAR_BYTE is what "inside the bracket" means is
the model's reading (log 10), and so are the flag `ready` (log 12) and the refusal of a run that crosses ST1 (log 26). -/
def Obligations.AccessesWithoutMeaningAreRefused : Prop :=
  (∀ (p : Params) (x : Fields) (m : Byte) (s : State), s.ready = false →
    setDateTime p x s = .refused .outsideLifecycle ∧ getDateTime p s = .refused .outsideLifecycle ∧
    setOutputWave p m s = .refused .outsideLifecycle) ∧
  (∀ (n : Nat) (s : State), s.TransportSucceeds 1 → mapSize < s.pointer + n → receive n s = .refused .pastEndOfMap) ∧
  (∀ (p : Params) (r : Byte) (data : List Byte) (s : State), s.TransportSucceeds 1 → data ≠ [] →
    (mapSize < r.toNat + data.length → send p (r :: data) s = .refused .pastEndOfMap) ∧
    (r.toNat + data.length ≤ mapSize → ¬ s.unprotected p → ¬ (r.toNat = p.addrSt1 ∧ data.length = 1) →
      send p (r :: data) s = .refused .outsideBracket))

/-- 60_exceptions.md R109, for a SetDateTime whose burst takes several chunks: whichever chunk fails, the TransportFailure is
returned at once and ST1 is left with WP_CLEAR_BYTE, or, with REPROTECT_ON_FAILURE, after exactly one set-protect write: ST1
then holds WP_SET_BYTE if that write succeeded, and still WP_CLEAR_BYTE if it failed too. That a failing later chunk is
followed by re-protection is log 22; what ST1 holds rests on log 9, log 10 and log 14 (the model's choice and readings); the
lifecycle premise is log 12, the address Byte 0xD0 (R112) log 16. -/
def Obligations.ReprotectAfterAnyFailedChunk : Prop :=
  ∀ (p : Params) (x : Fields) (s : State) (j kind : Nat) (rest : List Answer), p.wf → s.ready = true →
    validDateTime x = true → j * (p.bufCap - 1) < 7 →
    s.answers = List.replicate (1 + j) Answer.success ++ Answer.failure kind :: rest →
    ∃ t, setDateTime p x s = .failed .transportFailure t ∧
      (p.reprotectOnFailure = false →
        t.calls.length = s.calls.length + j + 2 ∧ t.store.read p.addrSt1 = p.wpClear) ∧
      (p.reprotectOnFailure = true →
        t.calls.length = s.calls.length + j + 3 ∧
        t.calls.getLast? = some (.send 0xD0 [BitVec.ofNat 8 p.addrSt1, p.wpSet]) ∧
        (∀ rest', rest = Answer.success :: rest' → t.store.read p.addrSt1 = p.wpSet) ∧
        (∀ kind' rest', rest = Answer.failure kind' :: rest' → t.store.read p.addrSt1 = p.wpClear))
end

