-- ==== Sys2Proof/Laws/Memory.lean ====
section
/-! SUPPORT. The register store: read after write, the canonical form and its uniqueness. -/
namespace Sys2Proof.Machine.Memory

theorem read_erase_self (m : Memory) (r : Nat) : (m.erase r).read r = Config.powerOnByte r := by
  induction m with
  | nil => rfl
  | cons c m ih =>
    obtain ⟨k, b⟩ := c
    simp only [erase]
    split
    · exact ih
    · rw [read, if_neg ‹_›, ih]

theorem read_erase_ne {r r' : Nat} (m : Memory) (h : r' ≠ r) : (m.erase r).read r' = m.read r' := by
  induction m with
  | nil => rfl
  | cons c m ih =>
    obtain ⟨k, b⟩ := c
    simp only [erase, read]
    split
    · subst r; rw [if_neg h, ih]
    · rw [read, ih]

theorem read_insert_ne {r r' : Nat} (m : Memory) (b : Byte) (h : r' ≠ r) : (m.insert r b).read r' = m.read r' := by
  induction m with
  | nil => simp [insert, read, h]
  | cons c m ih =>
    obtain ⟨k, d⟩ := c
    simp only [insert]
    split <;> simp [read, h, ih]

theorem read_insert_self (m : Memory) (r : Nat) (b : Byte) (h : ∀ c ∈ m, c.1 ≠ r) : (m.insert r b).read r = b := by
  induction m with
  | nil => simp [insert, read]
  | cons c m ih =>
    obtain ⟨k, d⟩ := c
    simp only [insert]
    split
    · simp [read]
    · have hk : r ≠ k := fun e => h (k, d) (by simp) e.symm
      rw [read, if_neg hk]
      exact ih fun c hc => h c (by simp [hc])

theorem mem_erase {m : Memory} {r : Nat} {c : Host.Cell} (h : c ∈ m.erase r) : c ∈ m ∧ c.1 ≠ r := by
  induction m with
  | nil => cases h
  | cons d m ih =>
    obtain ⟨k, b⟩ := d
    simp only [erase] at h
    split at h
    · exact ⟨.tail _ (ih h).1, (ih h).2⟩
    · obtain - | h := h
      · exact ⟨by simp, fun e => ‹¬ r = k› e.symm⟩
      · exact ⟨.tail _ (ih ‹_›).1, (ih ‹_›).2⟩

/-- Read after write: the written offset gives the Byte written, every other offset is left alone. -/
theorem read_write (m : Memory) (r r' : Nat) (b : Byte) : (m.write r b).read r' = if r' = r then b else m.read r' := by
  unfold write
  by_cases h : r' = r
  · subst h
    split
    · rw [read_erase_self, if_pos rfl, ‹b = _›]
    · rw [read_insert_self _ _ _ fun c hc => (mem_erase hc).2, if_pos rfl]
  · rw [if_neg h]
    split
    · exact read_erase_ne m h
    · rw [read_insert_ne _ _ h, read_erase_ne m h]

theorem pairwise_erase {m : Memory} (r : Nat) (h : m.Pairwise (fun c d => c.1 < d.1)) :
    (m.erase r).Pairwise (fun c d => c.1 < d.1) := by
  induction m with
  | nil => exact h
  | cons c m ih =>
    obtain ⟨k, b⟩ := c
    rw [List.pairwise_cons] at h
    simp only [erase]
    split
    · exact ih h.2
    · exact List.pairwise_cons.2 ⟨fun d hd => h.1 d (mem_erase hd).1, ih h.2⟩

theorem mem_insert {m : Memory} {r : Nat} {b : Byte} {c : Host.Cell} (h : c ∈ m.insert r b) : c = (r, b) ∨ c ∈ m := by
  induction m with
  | nil => exact .inl (by simpa [insert] using h)
  | cons d m ih =>
    obtain ⟨k, e⟩ := d
    simp only [insert] at h
    split at h
    · simpa using h
    · obtain - | h := h
      · simp
      · obtain e | e := ih ‹_› <;> simp [e]

theorem pairwise_insert {m : Memory} (r : Nat) (b : Byte) (h : m.Pairwise (fun c d => c.1 < d.1)) (hr : ∀ c ∈ m, c.1 ≠ r) :
    (m.insert r b).Pairwise (fun c d => c.1 < d.1) := by
  induction m with
  | nil => simp [insert]
  | cons c m ih =>
    obtain ⟨k, d⟩ := c
    have hc := List.pairwise_cons.1 h
    simp only [insert]
    split
    · refine List.pairwise_cons.2 ⟨fun e he => ?_, h⟩
      obtain - | he := he
      · assumption
      · exact Nat.lt_trans ‹r < k› (hc.1 e ‹_›)
    · refine List.pairwise_cons.2 ⟨fun e he => ?_, ih hc.2 fun c hc => hr c (by simp [hc])⟩
      obtain rfl | he := mem_insert he
      · have := hr (k, d) (by simp)
        simp only at this ⊢
        omega
      · exact hc.1 e he

/-- A write to an offset of the map keeps the canonical form. -/
theorem wf_write {m : Memory} {r : Nat} (b : Byte) (h : m.wf) (hr : r < mapSize) : (m.write r b).wf := by
  have hp := pairwise_erase r h.1
  unfold write
  split
  · exact ⟨hp, fun c hc => h.2 c (mem_erase hc).1⟩
  · refine ⟨pairwise_insert r b hp fun c hc => (mem_erase hc).2, fun c hc => ?_⟩
    obtain rfl | hc := mem_insert hc
    · exact ⟨hr, ‹_›⟩
    · exact h.2 c (mem_erase hc).1

theorem wf_nil : wf [] := ⟨.nil, by simp⟩

/-- A run of writes inside the map keeps the canonical form. -/
theorem wf_writeBytes {m : Memory} {r : Nat} {bs : List Byte} (h : m.wf) (hr : r + bs.length ≤ mapSize) :
    (m.writeBytes r bs).wf := by
  induction bs generalizing m r with
  | nil => exact h
  | cons b bs ih =>
    simp only [List.length_cons] at hr
    exact ih (wf_write b h (by omega)) (by omega)

/-- What a run of writes leaves: the Bytes written at their offsets, every other offset alone. -/
theorem read_writeBytes (m : Memory) (r r' : Nat) (bs : List Byte) :
    (m.writeBytes r bs).read r' = if r ≤ r' then (bs[r' - r]?).getD (m.read r') else m.read r' := by
  induction bs generalizing m r with
  | nil => simp [writeBytes]
  | cons b bs ih =>
    rw [writeBytes, ih, read_write]
    by_cases h : r' = r
    · subst h
      simp
    · simp only [if_neg h]
      by_cases h1 : r + 1 ≤ r'
      · have : r' - r = (r' - (r + 1)) + 1 := by omega
        rw [if_pos h1, if_pos (Nat.le_of_succ_le h1), this, List.getElem?_cons_succ]
      · rw [if_neg h1, if_neg (by omega)]

@[simp] theorem length_readBytes (m : Memory) (r n : Nat) : (m.readBytes r n).length = n := by
  induction n generalizing r with
  | zero => rfl
  | succ n ih => simp [readBytes, ih]

theorem getElem?_readBytes (m : Memory) (r n i : Nat) :
    (m.readBytes r n)[i]? = if i < n then some (m.read (r + i)) else none := by
  induction n generalizing r i with
  | zero => simp [readBytes]
  | succ n ih =>
    cases i with
    | zero => simp [readBytes]
    | succ i => simp [readBytes, ih, Nat.add_assoc, Nat.add_comm 1]

/-- Reading the run just written gives the Bytes written. -/
theorem readBytes_writeBytes (m : Memory) (r : Nat) (bs : List Byte) : (m.writeBytes r bs).readBytes r bs.length = bs := by
  apply List.ext_getElem?
  intro i
  rw [getElem?_readBytes, read_writeBytes]
  by_cases h : i < bs.length
  · simp [h]
  · simp [h]

/-- An offset below every listed one is not listed. -/
theorem read_of_lt {m : Memory} {r : Nat} (h : ∀ c ∈ m, r < c.1) : m.read r = Config.powerOnByte r := by
  induction m with
  | nil => rfl
  | cons c m ih =>
    have hk : r ≠ c.1 := Nat.ne_of_lt (h c (by simp))
    rw [read, if_neg hk]
    exact ih fun d hd => h d (by simp [hd])

/-- Equal stores are equal data: two stores in canonical form that read alike are the same list. -/
theorem eq_of_read {m m' : Memory} (h : m.wf) (h' : m'.wf) (e : ∀ r, m.read r = m'.read r) : m = m' := by
  induction m generalizing m' with
  | nil =>
    cases m' with
    | nil => rfl
    | cons c m' => exact absurd (by simpa [read] using (e c.1).symm) (h'.2 c (by simp)).2
  | cons c m ih =>
    cases m' with
    | nil => exact absurd (by simpa [read] using e c.1) (h.2 c (by simp)).2
    | cons d m' =>
      obtain ⟨k, b⟩ := c
      obtain ⟨k', b'⟩ := d
      have hm := List.pairwise_cons.1 h.1
      have hm' := List.pairwise_cons.1 h'.1
      have hk : k = k' := by
        by_contra hne
        rcases Nat.lt_or_gt_of_ne hne with hlt | hlt
        · have := e k
          rw [read, if_pos rfl, read_of_lt (by
            intro c hc
            obtain - | hc := hc
            · exact hlt
            · exact Nat.lt_trans hlt (hm'.1 c ‹_›))] at this
          exact (h.2 (k, b) (by simp)).2 this
        · have := (e k').symm
          rw [read, if_pos rfl, read_of_lt (by
            intro c hc
            obtain - | hc := hc
            · exact hlt
            · exact Nat.lt_trans hlt (hm.1 c ‹_›))] at this
          exact (h'.2 (k', b') (by simp)).2 this
      subst hk
      have hb : b = b' := by simpa [read] using e k
      subst hb
      congr 1
      refine ih ⟨hm.2, fun c hc => h.2 c (by simp [hc])⟩ ⟨hm'.2, fun c hc => h'.2 c (by simp [hc])⟩ fun r => ?_
      by_cases hr : r = k
      · subst hr
        rw [read_of_lt fun c hc => hm.1 c hc, read_of_lt fun c hc => hm'.1 c hc]
      · simpa [read, hr] using e r

end Sys2Proof.Machine.Memory
end

