-- ==== Sys2Proof/Laws/Operands.lean ====
section
/-! SUPPORT. Operand forms: nibbles, single bits, vector elements, and what the converters do inside and outside their domains. -/
namespace Sys2Proof.Machine

@[simp] theorem hiNibble_ofNibbles (h l : Nibble) : hiNibble (ofNibbles h l) = h := by revert h l; decide

@[simp] theorem loNibble_ofNibbles (h l : Nibble) : loNibble (ofNibbles h l) = l := by revert h l; decide

theorem ofNibbles_nibbles (b : Byte) : ofNibbles (hiNibble b) (loNibble b) = b := by revert b; decide

theorem toNat_ofNibbles (h l : Nibble) : (ofNibbles h l).toNat = 16 * h.toNat + l.toNat := by revert h l; decide

theorem getLsbD_bitMask (n : Fin 8) (i : Nat) (hi : i < 8) : (bitMask n).getLsbD i = decide (i = n.val) := by
  revert n i hi; decide

theorem getLsbD_clearBits (mask b : Byte) (i : Nat) (hi : i < 8) :
    (clearBits mask b).getLsbD i = (b.getLsbD i && !mask.getLsbD i) := by
  simp [clearBits, hi]

theorem getLsbD_setBits (bits b : Byte) (i : Nat) : (setBits bits b).getLsbD i = (b.getLsbD i || bits.getLsbD i) := by
  simp [setBits]

@[simp] theorem clockHalt_and_7F (b : Byte) : clockHalt (b &&& seconds7F) = false := by revert b; decide

/-- Reading element `i` of a port built from seven elements gives that element. -/
theorem elem_toPort (x : Fields) (i : Fin 7) : elem x.toPort i = x.get i := by
  apply BitVec.eq_of_getLsbD_eq
  intro j hj
  fin_cases i <;> simp only [elem, Fields.toPort, Fields.get, BitVec.getLsbD_extractLsb', BitVec.getLsbD_append] <;>
    (interval_cases j <;> rfl)

@[simp] theorem ofPort_toPort (x : Fields) : Fields.ofPort x.toPort = x := by
  have h := elem_toPort x
  simp only [Fields.ofPort]
  have h0 := h 0; have h1 := h 1; have h2 := h 2; have h3 := h 3; have h4 := h 4; have h5 := h 5; have h6 := h 6
  simp only [Fields.get] at h0 h1 h2 h3 h4 h5 h6
  cases x
  simp_all

theorem get_ofPort (v : VecBits) (i : Fin 7) : (Fields.ofPort v).get i = elem v i := by
  fin_cases i <;> rfl

@[simp] theorem toPort_ofPort (v : VecBits) : (Fields.ofPort v).toPort = v := by
  apply BitVec.eq_of_getLsbD_eq
  intro j hj
  simp only [Fields.toPort, Fields.ofPort, elem, BitVec.getLsbD_append, BitVec.getLsbD_extractLsb']
  interval_cases j <;> rfl

@[simp] theorem ofList_toList (x : Fields) : Fields.ofList x.toList = some x := rfl

@[simp] theorem length_toList (x : Fields) : x.toList.length = 7 := rfl

theorem toList_getElem? (x : Fields) (i : Fin 7) : x.toList[i.val]? = some (x.get i) := by
  fin_cases i <;> rfl

/-- D2B inside its domain (40_bcd_converters.md R64). -/
theorem d2b_of_dom {v : Byte} (h : inDomD2b v) :
    d2b v = ofNibbles (BitVec.ofNat 4 (v.toNat / 10)) (BitVec.ofNat 4 (v.toNat % 10)) := if_pos h

/-- D2B outside its domain (40_bcd_converters.md R70). -/
theorem d2b_of_not_dom {v : Byte} (h : ¬ inDomD2b v) : d2b v = Config.oodD2B v := if_neg h

/-- B2D inside its domain (40_bcd_converters.md R66). -/
theorem b2d_of_dom {b : Byte} (h : inDomB2d b) : b2d b = BitVec.ofNat 8 (10 * (hiNibble b).toNat + (loNibble b).toNat) :=
  if_pos h

/-- B2D outside its domain (40_bcd_converters.md R70). -/
theorem b2d_of_not_dom {b : Byte} (h : ¬ inDomB2d b) : b2d b = Config.oodB2D b := if_neg h

theorem inRange_iff {lo hi : Nat} {b : Byte} : inRange lo hi b = true ↔ lo ≤ b.toNat ∧ b.toNat ≤ hi := by
  simp [inRange]

theorem validDateTime_iff (x : Fields) :
    validDateTime x = true ↔
      x.second.toNat ≤ 59 ∧ x.minute.toNat ≤ 59 ∧ x.hour.toNat ≤ 23 ∧ (1 ≤ x.weekDay.toNat ∧ x.weekDay.toNat ≤ 7) ∧
        (1 ≤ x.day.toNat ∧ x.day.toNat ≤ 31) ∧ (1 ≤ x.month.toNat ∧ x.month.toNat ≤ 12) ∧ x.year.toNat ≤ 99 := by
  simp only [validDateTime, Bool.and_eq_true, inRange_iff, Nat.zero_le, true_and, and_assoc]

end Sys2Proof.Machine
end

