-- ==== Sys2Proof/Laws/State.lean ====
section
/-! SUPPORT. One lemma per field of State and per update: what an update writes, and that it writes nothing else. -/
namespace Sys2Proof.Machine

@[simp] theorem State.setY_cmd (s : State) (v : Byte) : (s.setY v).cmd = s.cmd := rfl
@[simp] theorem State.setY_a (s : State) (v : Byte) : (s.setY v).a = s.a := rfl
@[simp] theorem State.setY_f (s : State) (v : Byte) : (s.setY v).f = s.f := rfl
@[simp] theorem State.setY_va (s : State) (v : Byte) : (s.setY v).va = s.va := rfl
@[simp] theorem State.setY_out (s : State) (v : Byte) : (s.setY v).out = some (.y v) := rfl
@[simp] theorem State.setY_store (s : State) (v : Byte) : (s.setY v).store = s.store := rfl
@[simp] theorem State.setY_pointer (s : State) (v : Byte) : (s.setY v).pointer = s.pointer := rfl
@[simp] theorem State.setY_handler (s : State) (v : Byte) : (s.setY v).handler = s.handler := rfl
@[simp] theorem State.setY_ready (s : State) (v : Byte) : (s.setY v).ready = s.ready := rfl
@[simp] theorem State.setY_answers (s : State) (v : Byte) : (s.setY v).answers = s.answers := rfl
@[simp] theorem State.setY_calls (s : State) (v : Byte) : (s.setY v).calls = s.calls := rfl

@[simp] theorem State.setVy_cmd (s : State) (v : VecBits) : (s.setVy v).cmd = s.cmd := rfl
@[simp] theorem State.setVy_a (s : State) (v : VecBits) : (s.setVy v).a = s.a := rfl
@[simp] theorem State.setVy_f (s : State) (v : VecBits) : (s.setVy v).f = s.f := rfl
@[simp] theorem State.setVy_va (s : State) (v : VecBits) : (s.setVy v).va = s.va := rfl
@[simp] theorem State.setVy_out (s : State) (v : VecBits) : (s.setVy v).out = some (.vy v) := rfl
@[simp] theorem State.setVy_store (s : State) (v : VecBits) : (s.setVy v).store = s.store := rfl
@[simp] theorem State.setVy_pointer (s : State) (v : VecBits) : (s.setVy v).pointer = s.pointer := rfl
@[simp] theorem State.setVy_handler (s : State) (v : VecBits) : (s.setVy v).handler = s.handler := rfl
@[simp] theorem State.setVy_ready (s : State) (v : VecBits) : (s.setVy v).ready = s.ready := rfl
@[simp] theorem State.setVy_answers (s : State) (v : VecBits) : (s.setVy v).answers = s.answers := rfl
@[simp] theorem State.setVy_calls (s : State) (v : VecBits) : (s.setVy v).calls = s.calls := rfl

@[simp] theorem State.setOk_cmd (s : State) (v : Bool) : (s.setOk v).cmd = s.cmd := rfl
@[simp] theorem State.setOk_a (s : State) (v : Bool) : (s.setOk v).a = s.a := rfl
@[simp] theorem State.setOk_f (s : State) (v : Bool) : (s.setOk v).f = s.f := rfl
@[simp] theorem State.setOk_va (s : State) (v : Bool) : (s.setOk v).va = s.va := rfl
@[simp] theorem State.setOk_out (s : State) (v : Bool) : (s.setOk v).out = some (.ok v) := rfl
@[simp] theorem State.setOk_store (s : State) (v : Bool) : (s.setOk v).store = s.store := rfl
@[simp] theorem State.setOk_pointer (s : State) (v : Bool) : (s.setOk v).pointer = s.pointer := rfl
@[simp] theorem State.setOk_handler (s : State) (v : Bool) : (s.setOk v).handler = s.handler := rfl
@[simp] theorem State.setOk_ready (s : State) (v : Bool) : (s.setOk v).ready = s.ready := rfl
@[simp] theorem State.setOk_answers (s : State) (v : Bool) : (s.setOk v).answers = s.answers := rfl
@[simp] theorem State.setOk_calls (s : State) (v : Bool) : (s.setOk v).calls = s.calls := rfl

@[simp] theorem State.present_cmd (s : State) (t : Transaction) : (s.present t).cmd = t.cmd := rfl
@[simp] theorem State.present_a (s : State) (t : Transaction) : (s.present t).a = t.a := rfl
@[simp] theorem State.present_f (s : State) (t : Transaction) : (s.present t).f = t.f := rfl
@[simp] theorem State.present_va (s : State) (t : Transaction) : (s.present t).va = t.va := rfl
@[simp] theorem State.present_out (s : State) (t : Transaction) : (s.present t).out = s.out := rfl
@[simp] theorem State.present_store (s : State) (t : Transaction) : (s.present t).store = s.store := rfl
@[simp] theorem State.present_pointer (s : State) (t : Transaction) : (s.present t).pointer = s.pointer := rfl
@[simp] theorem State.present_handler (s : State) (t : Transaction) : (s.present t).handler = s.handler := rfl
@[simp] theorem State.present_ready (s : State) (t : Transaction) : (s.present t).ready = s.ready := rfl
@[simp] theorem State.present_answers (s : State) (t : Transaction) : (s.present t).answers = s.answers := rfl
@[simp] theorem State.present_calls (s : State) (t : Transaction) : (s.present t).calls = s.calls := rfl

@[simp] theorem State.presentScalar_cmd (s : State) (i : Instr) (v : Byte) (m : Nibble) : (s.presentScalar i v m).cmd = encode i := rfl
@[simp] theorem State.presentScalar_a (s : State) (i : Instr) (v : Byte) (m : Nibble) : (s.presentScalar i v m).a = v := rfl
@[simp] theorem State.presentScalar_f (s : State) (i : Instr) (v : Byte) (m : Nibble) : (s.presentScalar i v m).f = m := rfl
@[simp] theorem State.presentScalar_va (s : State) (i : Instr) (v : Byte) (m : Nibble) : (s.presentScalar i v m).va = s.va := rfl
@[simp] theorem State.presentScalar_out (s : State) (i : Instr) (v : Byte) (m : Nibble) : (s.presentScalar i v m).out = s.out := rfl
@[simp] theorem State.presentScalar_store (s : State) (i : Instr) (v : Byte) (m : Nibble) : (s.presentScalar i v m).store = s.store := rfl
@[simp] theorem State.presentScalar_pointer (s : State) (i : Instr) (v : Byte) (m : Nibble) : (s.presentScalar i v m).pointer = s.pointer := rfl
@[simp] theorem State.presentScalar_handler (s : State) (i : Instr) (v : Byte) (m : Nibble) : (s.presentScalar i v m).handler = s.handler := rfl
@[simp] theorem State.presentScalar_ready (s : State) (i : Instr) (v : Byte) (m : Nibble) : (s.presentScalar i v m).ready = s.ready := rfl
@[simp] theorem State.presentScalar_answers (s : State) (i : Instr) (v : Byte) (m : Nibble) : (s.presentScalar i v m).answers = s.answers := rfl
@[simp] theorem State.presentScalar_calls (s : State) (i : Instr) (v : Byte) (m : Nibble) : (s.presentScalar i v m).calls = s.calls := rfl

@[simp] theorem State.presentVector_cmd (s : State) (i : Instr) (x : Fields) : (s.presentVector i x).cmd = encode i := rfl
@[simp] theorem State.presentVector_a (s : State) (i : Instr) (x : Fields) : (s.presentVector i x).a = s.a := rfl
@[simp] theorem State.presentVector_f (s : State) (i : Instr) (x : Fields) : (s.presentVector i x).f = s.f := rfl
@[simp] theorem State.presentVector_va (s : State) (i : Instr) (x : Fields) : (s.presentVector i x).va = x.toPort := rfl
@[simp] theorem State.presentVector_out (s : State) (i : Instr) (x : Fields) : (s.presentVector i x).out = s.out := rfl
@[simp] theorem State.presentVector_store (s : State) (i : Instr) (x : Fields) : (s.presentVector i x).store = s.store := rfl
@[simp] theorem State.presentVector_pointer (s : State) (i : Instr) (x : Fields) : (s.presentVector i x).pointer = s.pointer := rfl
@[simp] theorem State.presentVector_handler (s : State) (i : Instr) (x : Fields) : (s.presentVector i x).handler = s.handler := rfl
@[simp] theorem State.presentVector_ready (s : State) (i : Instr) (x : Fields) : (s.presentVector i x).ready = s.ready := rfl
@[simp] theorem State.presentVector_answers (s : State) (i : Instr) (x : Fields) : (s.presentVector i x).answers = s.answers := rfl
@[simp] theorem State.presentVector_calls (s : State) (i : Instr) (x : Fields) : (s.presentVector i x).calls = s.calls := rfl

@[simp] theorem State.withFetchWord_cmd (s : State) (n w : Nat) : (s.withFetchWord n w).cmd = BitVec.ofNat 8 (w % 2 ^ n) := rfl
@[simp] theorem State.withFetchWord_a (s : State) (n w : Nat) : (s.withFetchWord n w).a = s.a := rfl
@[simp] theorem State.withFetchWord_f (s : State) (n w : Nat) : (s.withFetchWord n w).f = s.f := rfl
@[simp] theorem State.withFetchWord_va (s : State) (n w : Nat) : (s.withFetchWord n w).va = s.va := rfl
@[simp] theorem State.withFetchWord_out (s : State) (n w : Nat) : (s.withFetchWord n w).out = s.out := rfl
@[simp] theorem State.withFetchWord_store (s : State) (n w : Nat) : (s.withFetchWord n w).store = s.store := rfl
@[simp] theorem State.withFetchWord_pointer (s : State) (n w : Nat) : (s.withFetchWord n w).pointer = s.pointer := rfl
@[simp] theorem State.withFetchWord_handler (s : State) (n w : Nat) : (s.withFetchWord n w).handler = s.handler := rfl
@[simp] theorem State.withFetchWord_ready (s : State) (n w : Nat) : (s.withFetchWord n w).ready = s.ready := rfl
@[simp] theorem State.withFetchWord_answers (s : State) (n w : Nat) : (s.withFetchWord n w).answers = s.answers := rfl
@[simp] theorem State.withFetchWord_calls (s : State) (n w : Nat) : (s.withFetchWord n w).calls = s.calls := rfl

end Sys2Proof.Machine
end

