-- ==== Sys2Proof/Laws/Step.lean ====
section
/-! SUPPORT. What a step of the block can do, said once. -/
namespace Sys2Proof.Machine

/-- What operation `i` puts on its output port, as a function of the operand ports alone. -/
def resultOf (i : Instr) (a : Byte) (f : Nibble) (va : VecBits) : Result :=
  match i with
  | .d2b => .y (d2b a)
  | .b2d => .y (b2d a)
  | .bclr n => .y (clearBits (bitMask n) a)
  | .bset n => .y (setBits (bitMask n) a)
  | .nclr sel => .y (clearBits (nibMask sel) a)
  | .nset sel => .y (setBits (nibPlace sel f) a)
  | .nins sel => .y (setBits (nibPlace sel f) (clearBits (nibMask sel) a))
  | .pksec => .y (packSecond a)
  | .upsec => .y (unpackSecond a)
  | .pkdt => .vy (packFields (Fields.ofPort va)).toPort
  | .updt => .vy (unpackFields (Fields.ofPort va)).toPort
  | .pkwave => .y ((a &&& 0xF0) ||| zext8 f)
  | .chkdt => .ok (validDateTime (Fields.ofPort va))
  | .chkwave => .ok (validWave a)

/-- Every arm of exec writes its result and nothing else. -/
theorem exec_eq (i : Instr) (s : State) : exec i s = .next { s with out := some (resultOf i s.a s.f s.va) } := by
  cases i <;> rfl

/-- A step is a transaction of a legal word, or the refusal of a reserved one. -/
theorem step_cases (s : State) :
    (∃ i, decode s.cmd = .operation i ∧ step s = .next { s with out := some (resultOf i s.a s.f s.va) }) ∨
      (∃ why, decode s.cmd = .reserved why ∧ step s = .refused (.reservedCommand why)) := by
  cases h : decode s.cmd with
  | operation i => exact .inl ⟨i, rfl, by rw [step, h]; exact exec_eq i s⟩
  | reserved why => exact .inr ⟨why, rfl, by rw [step, h]⟩

end Sys2Proof.Machine
end

