-- ==== Sys2Proof/Laws/Bus.lean ====
section
/-! SUPPORT. What one exchange, one bus operation and one transaction of the engine can do. -/
namespace Sys2Proof.Machine

@[simp] theorem Reply.andThen_done {α β : Type} (v : α) (s : State) (k : α → State → Reply β) :
    (Reply.done v s).andThen k = k v s := rfl

@[simp] theorem Reply.andThen_failed {α β : Type} (e : ErrorKind) (s : State) (k : α → State → Reply β) :
    (Reply.failed e s : Reply α).andThen k = .failed e s := rfl

@[simp] theorem Reply.andThen_refused {α β : Type} (r : Refusal) (k : α → State → Reply β) :
    (Reply.refused r : Reply α).andThen k = .refused r := rfl

/-- An exchange is recorded, takes one answer, and changes nothing else. -/
theorem exchange_cases (c : BusCall) (s : State) :
    ∃ x rest, exchange c s = (x, { s with calls := s.calls ++ [c], answers := rest }) ∧
      (s.answers = x :: rest ∨ s.answers = [] ∧ rest = [] ∧ x = Config.transportAnswer s.calls.length) := by
  unfold exchange
  split
  next h => exact ⟨Config.transportAnswer s.calls.length, [], by simp [h], .inr ⟨h, rfl, rfl⟩⟩
  next h => exact ⟨_, _, rfl, .inl h⟩

theorem exchange_of_cons {c : BusCall} {s : State} {x : Answer} {rest : List Answer} (h : s.answers = x :: rest) :
    exchange c s = (x, { s with calls := s.calls ++ [c], answers := rest }) := by
  simp [exchange, h]

/-- A data write of the peripheral is refused, or it is the run of writes. -/
theorem peripheralWrite_done {p : Params} {r : Nat} {data : List Byte} {s t : State}
    (h : peripheralWrite p r data s = .done () t) :
    r + data.length ≤ mapSize ∧
      t = { s with store := s.store.writeBytes r data, pointer := Config.pointerAfterWrite r data.length } := by
  unfold peripheralWrite at h
  split at h
  · cases h
  · split at h
    · cases h
      exact ⟨by omega, rfl⟩
    · cases h

/-- A data write never fails: it is done or refused. -/
theorem peripheralWrite_not_failed {p : Params} {r : Nat} {data : List Byte} {s t : State} {e : ErrorKind} :
    peripheralWrite p r data s ≠ .failed e t := by
  unfold peripheralWrite
  split
  · simp
  · split <;> simp

theorem peripheralWrite_eq {p : Params} {r : Nat} {data : List Byte} {s : State} (hr : r + data.length ≤ mapSize)
    (hu : s.unprotected p ∨ (r = p.addrSt1 ∧ data.length = 1)) :
    peripheralWrite p r data s =
      .done () { s with store := s.store.writeBytes r data, pointer := Config.pointerAfterWrite r data.length } := by
  rw [peripheralWrite, if_neg (by omega), if_pos hu]

theorem toNat_regByte {r : Nat} (h : r < mapSize) : (regByte r).toNat = r := by
  unfold mapSize at h
  simp [regByte]
  omega

/-- A send that the transport fails: the call is recorded, the peripheral is as it was. -/
theorem send_of_failure {p : Params} {bytes : List Byte} {s : State} {k : Nat} {rest : List Answer}
    (h : s.answers = .failure k :: rest) :
    send p bytes s = .failed .transportFailure
      { s with calls := s.calls ++ [.send (slaveAddress false) bytes], answers := rest } := by
  rw [send, exchange_of_cons h]

/-- A send of a register address alone sets the register pointer. -/
theorem send_pointer {p : Params} {r : Nat} {s : State} {rest : List Answer} (h : s.answers = .success :: rest)
    (hr : r < mapSize) :
    send p [regByte r] s = .done ()
      { s with calls := s.calls ++ [.send (slaveAddress false) [regByte r]], answers := rest, pointer := r } := by
  rw [send, exchange_of_cons h]
  simp [toNat_regByte hr]

/-- A send of data inside the map, inside the bracket or to ST1 alone: the run of writes. -/
theorem send_data {p : Params} {r : Nat} {data : List Byte} {s : State} {rest : List Answer}
    (h : s.answers = .success :: rest) (hd : data ≠ []) (hr : r + data.length ≤ mapSize)
    (hu : s.unprotected p ∨ (r = p.addrSt1 ∧ data.length = 1)) :
    send p (regByte r :: data) s = .done ()
      { s with calls := s.calls ++ [.send (slaveAddress false) (regByte r :: data)], answers := rest,
               store := s.store.writeBytes r data, pointer := Config.pointerAfterWrite r data.length } := by
  obtain ⟨b, bs, rfl⟩ := List.exists_cons_of_ne_nil hd
  have hr' : r < mapSize := by simp only [List.length_cons] at hr; omega
  rw [send, exchange_of_cons h]
  simp only [toNat_regByte hr']
  exact peripheralWrite_eq hr hu

/-- A successful receive inside the map. -/
theorem receive_of_success {n : Nat} {s : State} {rest : List Answer} (h : s.answers = .success :: rest)
    (hr : s.pointer + n ≤ mapSize) :
    receive n s = .done (s.store.readBytes s.pointer n)
      { s with calls := s.calls ++ [.receive (slaveAddress true) n], answers := rest, pointer := s.pointer + n } := by
  rw [receive, exchange_of_cons h]
  simp only [if_neg (Nat.not_lt.2 hr)]

theorem receive_of_failure {n : Nat} {s : State} {k : Nat} {rest : List Answer} (h : s.answers = .failure k :: rest) :
    receive n s = .failed .transportFailure
      { s with calls := s.calls ++ [.receive (slaveAddress true) n], answers := rest } := by
  rw [receive, exchange_of_cons h]

/-- A single-register write is one send of one data Byte (60_exceptions.md R107). -/
theorem writeRegister_eq (p : Params) (r : Nat) (v : Byte) (s : State) (hc : 2 ≤ p.bufCap) :
    writeRegister p r v s = send p (regByte r :: [v]) s := by
  have : ([v] : List Byte).take (p.bufCap - 1) = [v] := List.take_of_length_le (by simp; omega)
  rw [writeRegister, burstWrite]
  simp only [List.length_singleton, chunks, this, sendChunks]
  cases send p [regByte r, v] s <;> rfl

@[simp] theorem checked_chkdt (x : Fields) (s : State) (k : State → Reply Unit) :
    checked (s.presentVector .chkdt x) k =
      if validDateTime x then k ((s.presentVector .chkdt x).setOk true)
      else .failed .invalidParameter ((s.presentVector .chkdt x).setOk false) := by
  have h : step (s.presentVector .chkdt x) = .next ((s.presentVector .chkdt x).setOk (validDateTime x)) := by
    simp only [step, State.presentVector_cmd, show decode (encode .chkdt) = .operation .chkdt by decide]
    simp [exec, execChkdt]
  simp only [checked, askOk, h, State.setOk_out, Reply.andThen_done]
  cases validDateTime x <;> rfl

@[simp] theorem checked_chkwave (m : Byte) (f : Nibble) (s : State) (k : State → Reply Unit) :
    checked (s.presentScalar .chkwave m f) k =
      if validWave m then k ((s.presentScalar .chkwave m f).setOk true)
      else .failed .invalidParameter ((s.presentScalar .chkwave m f).setOk false) := by
  have h : step (s.presentScalar .chkwave m f) = .next ((s.presentScalar .chkwave m f).setOk (validWave m)) := by
    simp only [step, State.presentScalar_cmd, show decode (encode .chkwave) = .operation .chkwave by decide]
    simp [exec, execChkwave]
  simp only [checked, askOk, h, State.setOk_out, Reply.andThen_done]
  cases validWave m <;> rfl

@[simp] theorem askVy_pkdt (x : Fields) (s : State) :
    askVy (s.presentVector .pkdt x) =
      .done (packFields x) ((s.presentVector .pkdt x).setVy (packFields x).toPort) := by
  have h : step (s.presentVector .pkdt x) = .next ((s.presentVector .pkdt x).setVy (packFields x).toPort) := by
    simp only [step, State.presentVector_cmd, show decode (encode .pkdt) = .operation .pkdt by decide]
    simp [exec, execPkdt]
  simp [askVy, h]

@[simp] theorem askVy_updt (x : Fields) (s : State) :
    askVy (s.presentVector .updt x) =
      .done (unpackFields x) ((s.presentVector .updt x).setVy (unpackFields x).toPort) := by
  have h : step (s.presentVector .updt x) = .next ((s.presentVector .updt x).setVy (unpackFields x).toPort) := by
    simp only [step, State.presentVector_cmd, show decode (encode .updt) = .operation .updt by decide]
    simp [exec, execUpdt]
  simp [askVy, h]

@[simp] theorem askY_pkwave (b : Byte) (f : Nibble) (s : State) :
    askY (s.presentScalar .pkwave b f) =
      .done ((b &&& 0xF0) ||| zext8 f) ((s.presentScalar .pkwave b f).setY ((b &&& 0xF0) ||| zext8 f)) := by
  have h : step (s.presentScalar .pkwave b f) =
      .next ((s.presentScalar .pkwave b f).setY ((b &&& 0xF0) ||| zext8 f)) := by
    simp only [step, State.presentScalar_cmd, show decode (encode .pkwave) = .operation .pkwave by decide]
    simp [exec, execPkwave]
  simp [askY, h]

end Sys2Proof.Machine
end

