-- ==== Sys2Proof/Laws/PerInstr.lean ====
section
/-! SUPPORT. Per instruction: its command word selects its own row of the opcode table (30_encoding.md R61, R62). -/
namespace Sys2Proof.Laws.TableRow

/-- The command word of `i` selects a row of opcode_table.json that names `i`, has `i`'s format and that format's mask. -/
def Statement (i : Instr) : Prop :=
  ∃ row ∈ opcodeTable, row.mnemonic = i.mnemonic ∧ row.format = i.format ∧ row.mask = i.format.mask ∧ row.selects (encode i) = true

theorem d2b : Statement .d2b := ⟨⟨"D2B", .z, 0x00, 0xFF⟩, by decide⟩
theorem b2d : Statement .b2d := ⟨⟨"B2D", .z, 0x10, 0xFF⟩, by decide⟩
theorem bclr (n : Fin 8) : Statement (.bclr n) := ⟨⟨"BCLR", .b, 0x20, 0xF8⟩, by revert n; decide⟩
theorem bset (n : Fin 8) : Statement (.bset n) := ⟨⟨"BSET", .b, 0x30, 0xF8⟩, by revert n; decide⟩
theorem nclr (s : NibbleSel) : Statement (.nclr s) := ⟨⟨"NCLR", .n, 0x40, 0xFE⟩, by cases s <;> decide⟩
theorem nset (s : NibbleSel) : Statement (.nset s) := ⟨⟨"NSET", .n, 0x50, 0xFE⟩, by cases s <;> decide⟩
theorem nins (s : NibbleSel) : Statement (.nins s) := ⟨⟨"NINS", .n, 0x60, 0xFE⟩, by cases s <;> decide⟩
theorem pksec : Statement .pksec := ⟨⟨"PKSEC", .z, 0x70, 0xFF⟩, by decide⟩
theorem upsec : Statement .upsec := ⟨⟨"UPSEC", .z, 0x80, 0xFF⟩, by decide⟩
theorem pkdt : Statement .pkdt := ⟨⟨"PKDT", .z, 0x90, 0xFF⟩, by decide⟩
theorem updt : Statement .updt := ⟨⟨"UPDT", .z, 0xA0, 0xFF⟩, by decide⟩
theorem pkwave : Statement .pkwave := ⟨⟨"PKWAVE", .z, 0xB0, 0xFF⟩, by decide⟩
theorem chkdt : Statement .chkdt := ⟨⟨"CHKDT", .z, 0xC0, 0xFF⟩, by decide⟩
theorem chkwave : Statement .chkwave := ⟨⟨"CHKWAVE", .z, 0xD0, 0xFF⟩, by decide⟩

end Sys2Proof.Laws.TableRow
end

