-- ==== Sys2Proof/Tests/Slice0.lean ====
section
/-! SUPPORT. Tests. Expected values are written out from the spec: the words from 30_encoding.md R49 to R52, the results from 95_test_vectors.md (section named at each test). Then, for each statement with hypotheses, a witness that meets them. -/
namespace Sys2Proof.Tests
open Sys2Proof Sys2Proof.Machine

/-! ## The command word, bit by bit: opcode, then argument (30_encoding.md R49 to R52) -/

theorem test_decode_d2b : decode 0b0000_0000 = .operation .d2b := by decide
theorem test_decode_b2d : decode 0b0001_0000 = .operation .b2d := by decide
theorem test_decode_bclr : decode 0b0010_0111 = .operation (.bclr 7) := by decide
theorem test_decode_bset : decode 0b0011_0010 = .operation (.bset 2) := by decide
theorem test_decode_nclr : decode 0b0100_0001 = .operation (.nclr .hi) := by decide
theorem test_decode_nset : decode 0b0101_0000 = .operation (.nset .lo) := by decide
theorem test_decode_nins : decode 0b0110_0001 = .operation (.nins .hi) := by decide
theorem test_decode_pksec : decode 0b0111_0000 = .operation .pksec := by decide
theorem test_decode_upsec : decode 0b1000_0000 = .operation .upsec := by decide
theorem test_decode_pkdt : decode 0b1001_0000 = .operation .pkdt := by decide
theorem test_decode_updt : decode 0b1010_0000 = .operation .updt := by decide
theorem test_decode_pkwave : decode 0b1011_0000 = .operation .pkwave := by decide
theorem test_decode_chkdt : decode 0b1100_0000 = .operation .chkdt := by decide
theorem test_decode_chkwave : decode 0b1101_0000 = .operation .chkwave := by decide

/-- Reserved: a must-be-zero bit of each format, and the two free opcodes (R54, R55). -/
theorem test_decode_reserved :
    decode 0b1101_0001 = .reserved .argumentZ ∧ decode 0b0010_1000 = .reserved .argumentB ∧
      decode 0b0110_0010 = .reserved .argumentN ∧ decode 0b1110_0000 = .reserved .opcode ∧
      decode 0b1111_1111 = .reserved .opcode := by decide

theorem test_decodeTableWord :
    decodeTableWord 8 0x27 = some (.bclr 7) ∧ decodeTableWord 8 0xE0 = none ∧ decodeTableWord 16 0x27 = none := by decide

theorem test_withFetchWord : decode (State.reset.withFetchWord 8 0x61).cmd = .operation (.nins .hi) := by decide

/-! ## Well-formedness: one ill-formed line for each check -/

theorem test_wf_accepts :
    AsmLine.wf { op := .bclr 7, a := some 0xD9 } = true ∧ AsmLine.wf { op := .nset .lo, a := some 0xA0, f := some 15 } = true ∧
      AsmLine.wf { op := .pkdt, va := some [0, 2, 10, 5, 23, 11, 255] } = true := by decide
theorem test_wf_bit_index : AsmLine.wf { op := .bclr 8, a := some 0 } = false ∧ AsmLine.wf { op := .bset 8, a := some 0 } = false := by
  decide
theorem test_wf_scalar_missing : AsmLine.wf { op := .d2b } = false := by decide
theorem test_wf_scalar_not_read : AsmLine.wf { op := .pkdt, a := some 1, va := some [0, 2, 10, 5, 23, 11, 23] } = false := by decide
theorem test_wf_scalar_too_wide : AsmLine.wf { op := .d2b, a := some 256 } = false := by decide
theorem test_wf_field_missing : AsmLine.wf { op := .waveset, a := some 0 } = false := by decide
theorem test_wf_field_not_read : AsmLine.wf { op := .waveclr, a := some 0, f := some 1 } = false := by decide
theorem test_wf_field_too_wide : AsmLine.wf { op := .nset .lo, a := some 0, f := some 16 } = false := by decide
theorem test_wf_vector_missing : AsmLine.wf { op := .updt } = false := by decide
theorem test_wf_vector_not_read : AsmLine.wf { op := .d2b, a := some 1, va := some [0, 0, 0, 0, 0, 0, 0] } = false := by decide
theorem test_wf_vector_length : AsmLine.wf { op := .updt, va := some [0, 2, 10, 5, 23, 11] } = false := by decide
theorem test_wf_vector_element : AsmLine.wf { op := .chkdt, va := some [0, 2, 10, 5, 23, 11, 256] } = false := by decide

/-! ## One transaction -/

/-- What a transaction on the scalar ports puts on the outputs. -/
def run (cmd a : Byte) (f : Nibble) : Option Result :=
  match step (State.reset.present ⟨cmd, a, f, 0⟩) with
  | .next t => t.out
  | .refused _ => none

/-- What a transaction on the vector port puts on the outputs, a vector as its seven elements. -/
def runV (cmd : Byte) (x : Fields) : Option Fields :=
  match step (State.reset.present ⟨cmd, 0, 0, x.toPort⟩) with
  | .next t =>
    match t.out with
    | some (.vy v) => some (Fields.ofPort v)
    | some (.y _) => none
    | some (.ok _) => none
    | none => none
  | .refused _ => none

/-- What CHKDT puts on the outputs. -/
def runChk (x : Fields) : Option Result :=
  match step (State.reset.present ⟨0xC0, 0, 0, x.toPort⟩) with
  | .next t => t.out
  | .refused _ => none

-- 95_test_vectors.md 2.1
theorem test_d2b : run 0x00 47 0 = some (.y 0x47) ∧ run 0x00 99 0 = some (.y 0x99) := by decide
theorem test_d2b_out_of_domain : run 0x00 100 0 = some (.y (Config.oodD2B 100)) := rfl
theorem test_b2d : run 0x10 0x59 0 = some (.y 59) ∧ run 0x10 0x80 0 = some (.y 80) := by decide
theorem test_b2d_out_of_domain : run 0x10 0xA0 0 = some (.y (Config.oodB2D 0xA0)) := rfl

-- 2.2
theorem test_bclr : run 0x27 0xD9 0 = some (.y 0x59) ∧ run 0x22 0xA5 0 = some (.y 0xA1) := by decide
theorem test_bset : run 0x37 0x59 0 = some (.y 0xD9) ∧ run 0x33 0xA5 0 = some (.y 0xAD) := by decide

-- 2.3
theorem test_nclr : run 0x40 0xA7 0 = some (.y 0xA0) ∧ run 0x41 0xA7 0 = some (.y 0x07) := by decide
theorem test_nset : run 0x50 0xA7 0x8 = some (.y 0xAF) ∧ run 0x51 0x0A 0xA = some (.y 0xAA) := by decide
theorem test_nins : run 0x60 0xA7 0xA = some (.y 0xAA) ∧ run 0x61 0xFF 0x5 = some (.y 0x5F) := by decide

-- 2.4
theorem test_pksec : run 0x70 59 0 = some (.y 0x59) ∧ run 0x70 85 0 = some (.y 0x05) := by decide
theorem test_pksec_out_of_domain : run 0x70 100 0 = some (.y (Config.oodD2B 100 &&& 0x7F)) := rfl
theorem test_upsec : run 0x80 0xC5 0 = some (.y 45) ∧ run 0x80 0xF9 0 = some (.y 79) := by decide
theorem test_upsec_out_of_domain : run 0x80 0xDA 0 = some (.y (Config.oodB2D 0x5A)) := rfl

-- 2.5
theorem test_pkdt : runV 0x90 ⟨0, 2, 10, 5, 23, 11, 23⟩ = some ⟨0x00, 0x02, 0x10, 0x05, 0x23, 0x11, 0x23⟩ := by decide
theorem test_pkdt_masks_second_only :
    runV 0x90 ⟨85, 2, 10, 5, 23, 11, 85⟩ = some ⟨0x05, 0x02, 0x10, 0x05, 0x23, 0x11, 0x85⟩ := by decide
theorem test_updt :
    runV 0xA0 ⟨0xD9, 0x59, 0x23, 0x07, 0x31, 0x12, 0x99⟩ = some ⟨59, 59, 23, 7, 31, 12, 99⟩ := by decide
theorem test_updt_out_of_domain :
    runV 0xA0 ⟨0x5A, 0x02, 0x10, 0x05, 0x23, 0x1F, 0x23⟩ =
      some ⟨Config.oodB2D 0x5A, 2, 10, 5, 23, Config.oodB2D 0x1F, 23⟩ := by
  have h := test_decode_updt
  simp only [runV, step, State.present, h, exec, execUpdt, State.setVy,
    ofPort_toPort]
  rfl

-- 2.6
theorem test_pkwave : run 0xB0 0xA7 0xA = some (.y 0xAA) ∧ run 0xB0 0xFF 0x1 = some (.y 0xF1) := by decide

-- 2.7, S3
theorem test_chkdt_bounds :
    runChk ⟨0, 0, 0, 1, 1, 1, 0⟩ = some (.ok true) ∧ runChk ⟨59, 59, 23, 7, 31, 12, 99⟩ = some (.ok true) := by decide
theorem test_chkdt_violations :
    (∀ x ∈ ([⟨60, 2, 10, 5, 23, 11, 23⟩, ⟨0, 60, 10, 5, 23, 11, 23⟩, ⟨0, 2, 24, 5, 23, 11, 23⟩, ⟨0, 2, 10, 0, 23, 11, 23⟩,
      ⟨0, 2, 10, 8, 23, 11, 23⟩] : List Fields), runChk x = some (.ok false)) ∧
    (∀ x ∈ ([⟨0, 2, 10, 5, 0, 11, 23⟩, ⟨0, 2, 10, 5, 32, 11, 23⟩, ⟨0, 2, 10, 5, 23, 0, 23⟩, ⟨0, 2, 10, 5, 23, 13, 23⟩,
      ⟨0, 2, 10, 5, 23, 11, 100⟩] : List Fields), runChk x = some (.ok false)) := by decide
theorem test_chkwave :
    run 0xD0 0 0 = some (.ok true) ∧ run 0xD0 15 0 = some (.ok true) ∧ run 0xD0 16 0 = some (.ok false) ∧
      run 0xD0 255 0 = some (.ok false) := by decide

/-- A reserved word is refused (R56). -/
theorem test_reserved_refused : step (State.reset.withFetchWord 8 0x08) = .refused (.reservedCommand .argumentZ) := rfl

/-- 10_state.md R22: the pairing, and it is one to one. -/
theorem test_wave_codes :
    OutputWaveMode.hz32768.code = 1 ∧ OutputWaveMode.hz1.code = 10 ∧ OutputWaveMode.hzThirtySecond.code = 15 ∧
      ∀ m : Nibble, (OutputWaveMode.ofCode m).code = m := by decide

/-! ## Witnesses: for each statement with hypotheses, a state and operands that meet them together -/

/-- Parameters of one environment: the order 20_memory.md R35 mentions, a buffer for one burst. -/
def params : Params := ⟨0, 7, 8, 9, 0x00, 0x80, 9, false⟩

/-- The same with the smallest buffer and re-protection. -/
def paramsSmall : Params := ⟨0x0E, 0x0D, 0, 1, 0x00, 0x80, 2, true⟩

/-- Inside the lifecycle, the transport's next answers given. -/
def ready (answers : List Answer) : State := { State.reset with ready := true, answers := answers }

/-- The same with write protection off in ST1 of `params`. -/
def unlocked (answers : List Answer) : State := { ready answers with store := Memory.write [] 7 0x00 }

/-- The DateTime of 95_test_vectors.md S8. -/
def s8 : Fields := ⟨0, 2, 10, 5, 23, 11, 23⟩

theorem witness_params : params.wf ∧ paramsSmall.wf ∧ 8 ≤ params.bufCap := by decide

theorem witness_TableRowsSelectWhatDecodes :
    (⟨"BCLR", .b, 0x20, 0xF8⟩ : OpcodeRow) ∈ opcodeTable ∧ OpcodeRow.selects ⟨"BCLR", .b, 0x20, 0xF8⟩ 0x27 = true := by decide

theorem witness_StepRunsTheDecodedOperation :
    decode (State.reset.withFetchWord 8 0x37).cmd = .operation (.bset 7) ∧
      (State.reset.withFetchWord 8 0x37).cmd = encode (.bset 7) ∧
      decode (State.reset.withFetchWord 8 0xFF).cmd = .reserved .opcode := by decide

theorem witness_UnnamedInputPortsHaveNoEffect :
    SameOperands (.nset .lo) { State.reset with cmd := 1, a := 2, f := 3, va := 4 } { State.reset with cmd := 9, a := 2, f := 3, va := 8 } :=
  ⟨fun _ => rfl, fun _ => rfl, fun h => nomatch h⟩

theorem witness_TransactionsCommute :
    ∃ sx sxy, step (State.reset.present ⟨0x00, 23, 0, 0⟩) = .next sx ∧ step (sx.present ⟨0x50, 0xA0, 0xA, 0⟩) = .next sxy :=
  ⟨_, _, rfl, rfl⟩

/-- A state that meets the invariant with an answered encode on the ports and a register written. -/
def settled : State := { State.reset with cmd := 0x70, a := 85, out := some (.y 0x05), store := Memory.write [] 0x14 0x55 }

theorem settled_inv : settled.Inv := by
  refine ⟨Memory.wf_write _ Memory.wf_nil (by decide), fun r i hr hi => ?_⟩
  obtain rfl : Result.y 0x05 = r := Option.some.inj hr
  obtain rfl : Instr.pksec = i := Decoded.operation.inj (test_decode_pksec.symm.trans hi)
  exact ⟨rfl, fun _ => by decide⟩

theorem witness_StepKeepsInvariant : settled.Inv ∧ ∃ t, step settled = .next t := ⟨settled_inv, _, rfl⟩

theorem witness_DecimalToBcdPacksDigits :
    (State.reset.present ⟨0x00, 99, 0, 0⟩).a.toNat ≤ 99 ∧ 99 < (State.reset.present ⟨0x00, 100, 0, 0⟩).a.toNat := by decide

theorem witness_BcdToDecimalReadsDigits :
    ((hiNibble 0x99).toNat ≤ 9 ∧ (loNibble 0x99).toNat ≤ 9) ∧ 9 < (loNibble 0x9A).toNat ∧ 9 < (hiNibble 0xA9).toNat := by decide

theorem witness_DecimalToBcdOnItsDomain :
    AnswersY State.reset .d2b 98 0 0x98 ∧ AnswersY State.reset .d2b 99 0 0x99 ∧ (98 : Byte).toNat < (99 : Byte).toNat ∧
      (99 : Byte).toNat ≤ 99 := ⟨rfl, rfl, by decide⟩

theorem witness_BcdLaw : (99 : Byte).toNat ≤ 99 := by decide

theorem witness_ConverseBcdLaw : (hiNibble 0x99).toNat ≤ 9 ∧ (loNibble 0x99).toNat ≤ 9 := by decide

/-- The bit of `n` itself and another one; the first and the last element a vector operation does not mask. -/
theorem witness_SingleBitHelpersChangeOneBit : 7 < 8 ∧ 7 = (7 : Fin 8).val ∧ 0 ≠ (7 : Fin 8).val := by decide
theorem witness_VectorOperationsWorkElementwise : 1 ≤ 1 ∧ 1 ≤ 6 ∧ 6 ≤ 6 := by decide

theorem witness_BitFieldHelpersAreLocalAndIdempotent : Instr.isHelper (.nset .hi) = true ∧ Instr.isHelper (.bclr 7) = true := by
  decide

theorem witness_BitFieldHelpersCommute :
    (Instr.isHelper (.bset 4) = true ∧ Instr.isHelper (.nins .lo) = true ∧ Instr.touches (.bset 4) &&& Instr.touches (.nins .lo) = 0) ∧
      (Instr.isHelper (.bset 3) = true ∧ Instr.isHelper (.nset .lo) = true ∧ Instr.isOr (.bset 3) ∧ Instr.isOr (.nset .lo)) ∧
      (Instr.isHelper (.bclr 4) = true ∧ Instr.isHelper (.nclr .hi) = true ∧ Instr.isAnd (.bclr 4) ∧ Instr.isAnd (.nclr .hi)) :=
  ⟨by decide, ⟨rfl, rfl, .inl ⟨_, rfl⟩, .inr ⟨_, rfl⟩⟩, rfl, rfl, .inl ⟨_, rfl⟩, .inr ⟨_, rfl⟩⟩

theorem witness_PackSecondForcesClockHaltClear :
    (59 : Byte).toNat ≤ 59 ∧ 80 ≤ (80 : Byte).toNat ∧ (99 : Byte).toNat ≤ 99 ∧ 100 ≤ (100 : Byte).toNat := by decide

theorem witness_UnpackSecondIgnoresClockHalt : (loNibble 0xF9).toNat ≤ 9 ∧ 9 < (loNibble 0xDA).toNat := by decide

theorem witness_DateTimeRoundTrip :
    validDateTime ⟨59, 59, 23, 7, 31, 12, 99⟩ = true ∧
      ((∀ i, (Fields.get ⟨79, 99, 99, 99, 99, 99, 99⟩ i).toNat ≤ 99) ∧ (Fields.get ⟨79, 99, 99, 99, 99, 99, 99⟩ 0).toNat ≤ 79) ∧
      ((∀ i, (Fields.get ⟨80, 99, 99, 99, 99, 99, 99⟩ i).toNat ≤ 99) ∧ 80 ≤ (Fields.get ⟨80, 99, 99, 99, 99, 99, 99⟩ 0).toNat) := by
  decide

theorem witness_BufferRoundTrip :
    ((hiNibble (0xF9 &&& 0x7F)).toNat ≤ 9 ∧ (loNibble (0xF9 &&& 0x7F)).toNat ≤ 9) ∧
      ∀ i, i ≠ 0 → (hiNibble (Fields.get ⟨0xF9, 0x99, 0x23, 0x07, 0x31, 0x12, 0x99⟩ i)).toNat ≤ 9 ∧
        (loNibble (Fields.get ⟨0xF9, 0x99, 0x23, 0x07, 0x31, 0x12, 0x99⟩ i)).toNat ≤ 9 := by decide

theorem witness_CheckedDateTimeEncodesToDigits :
    step (State.reset.presentVector .chkdt s8) = .next ((State.reset.presentVector .chkdt s8).setOk true) := rfl

theorem witness_AssemblyLinePresentsItsTransaction :
    AsmLine.wf { op := .nset .hi, a := some 255, f := some 15 } = true ∧ AsmLine.wf { op := .d2b, a := some 256 } = false := by decide

theorem witness_PseudoOperationsAbbreviate : 255 < 256 ∧ 15 < 16 := by decide

/-- The four kinds of Handler of Init, and the two answers of its hook. -/
theorem witness_InitValidatesBindings :
    { State.reset with handler := ⟨false, true, false, false⟩ }.handler.sendBound = false ∧
      { State.reset with handler := ⟨true, false, false, false⟩ }.handler.receiveBound = false ∧
      (State.reset.handler.sendBound = true ∧ State.reset.handler.receiveBound = true ∧ State.reset.handler.initHook = false) ∧
      ∀ x ∈ [Answer.success, .failure 0], ∃ s : State,
        s.handler.sendBound = true ∧ s.handler.receiveBound = true ∧ s.handler.initHook = true ∧ s.answers = [x] :=
  ⟨rfl, rfl, ⟨rfl, rfl, rfl⟩, fun x _ =>
    ⟨{ State.reset with handler := ⟨true, true, true, false⟩, answers := [x] }, rfl, rfl, rfl, rfl⟩⟩

theorem witness_DeInitRunsItsHook :
    State.reset.handler.deinitHook = false ∧
      ∀ x ∈ [Answer.success, .failure 0], ∃ s : State, s.handler.deinitHook = true ∧ s.answers = [x] :=
  ⟨rfl, fun x _ => ⟨{ State.reset with handler := ⟨true, true, false, true⟩, answers := [x] }, rfl, rfl⟩⟩

theorem witness_InvalidParameterExactlyOnFailedCheck :
    (ready []).ready = true ∧ (∃ t, setDateTime params ⟨60, 2, 10, 5, 23, 11, 23⟩ (ready []) = .failed .invalidParameter t) ∧
      ∃ t, setOutputWave params 16 (ready []) = .failed .invalidParameter t := ⟨rfl, ⟨_, rfl⟩, _, rfl⟩

theorem witness_SetDateTimeCallSequence :
    params.wf ∧ 8 ≤ params.bufCap ∧ (ready [.success, .success, .success]).ready = true ∧ validDateTime s8 = true ∧
      (ready [.success, .success, .success]).TransportSucceeds 3 :=
  ⟨witness_params.1, by decide, rfl, by decide, [], rfl⟩

/-- With the smallest buffer too: SetDateTimeLeavesEncodedTime (9 calls), SetThenGetReturnsSameDateTime (11). -/
theorem witness_SetDateTime (n : Nat) :
    paramsSmall.wf ∧ (ready (List.replicate n .success)).ready = true ∧ validDateTime s8 = true ∧
      (ready (List.replicate n .success)).TransportSucceeds n :=
  ⟨witness_params.2.1, rfl, by decide, [], (List.append_nil _).symm⟩

theorem witness_GetDateTimeDecodesTimeRegisters :
    paramsSmall.wf ∧ (ready [.success, .success]).ready = true ∧ (ready [.success, .success]).TransportSucceeds 2 :=
  ⟨witness_params.2.1, rfl, [], rfl⟩

/-- A GetDateTime that returns and one whose receive fails (95_test_vectors.md S9). -/
theorem witness_GetDateTimeLeavesStoreUntouched :
    (∃ t, (getDateTime params (ready [.success, .success])).state? = some t) ∧
      (∃ t, getDateTime params (ready [.success, .failure 0]) = .failed .transportFailure t) ∧
      (ready [.success, .failure 0]).ready = true ∧ (ready [.success, .failure 0]).TransportFailsAfter 1 :=
  ⟨⟨_, rfl⟩, ⟨_, rfl⟩, rfl, 0, [], rfl⟩

theorem witness_SetOutputWaveReplacesWaveField :
    params.wf ∧ (ready (List.replicate 7 .success)).ready = true ∧ (15 : Byte).toNat ≤ 15 ∧
      (ready (List.replicate 7 .success)).TransportSucceeds 7 :=
  ⟨witness_params.1, rfl, by decide, [], rfl⟩

theorem unlocked_unprotected (answers : List Answer) : (unlocked answers).unprotected params := by
  simp [State.unprotected, unlocked, params, Memory.read_write]

theorem witness_BurstWriteRefinesOneWrite :
    2 ≤ params.bufCap ∧ 0x13 + [1, 2].length ≤ mapSize ∧ (unlocked [.success, .success]).unprotected params ∧
      (params.addrSt1 < 0x13 ∨ 0x13 + [1, 2].length ≤ params.addrSt1) ∧ (unlocked [.success, .success]).TransportSucceeds 2 :=
  ⟨by decide, by decide, unlocked_unprotected _, by decide, [], rfl⟩

/-- A buffer of two Bytes, the second chunk failing. -/
theorem witness_FailedChunkKeepsEarlierChunks :
    let p := { params with bufCap := 2 }
    2 ≤ p.bufCap ∧ 0 + [1, 2].length ≤ mapSize ∧ (unlocked [.success, .failure 0]).unprotected p ∧
      (p.addrSt1 < 0 ∨ 0 + [1, 2].length ≤ p.addrSt1) ∧ 1 * (p.bufCap - 1) < [1, 2].length ∧
      (unlocked [.success, .failure 0]).TransportFailsAfter 1 :=
  ⟨by decide, by decide, unlocked_unprotected _, by decide, by decide, 0, [], rfl⟩

theorem witness_ReprotectOnlyWhenConfigured :
    (params.wf ∧ params.reprotectOnFailure = false ∧ paramsSmall.wf ∧ paramsSmall.reprotectOnFailure = true) ∧
      ((ready [.success, .failure 0]).ready = true ∧ validDateTime s8 = true ∧ (ready [.success, .failure 0]).TransportFailsAfter 1) ∧
      (ready [.success, .success, .success, .failure 0]).ready = true ∧ (15 : Byte).toNat ≤ 15 ∧
      (ready [.success, .success, .success, .failure 0]).TransportFailsAfter 3 :=
  ⟨by decide, ⟨rfl, by decide, 0, [], rfl⟩, rfl, by decide, 0, [], rfl⟩

/-- At the last call of each operation: the second of GetDateTime, the third of SetDateTime, the seventh of SetOutputWave. -/
theorem witness_FirstFailingCallEndsOperation :
    params.wf ∧ params.reprotectOnFailure = false ∧ validDateTime s8 = true ∧ (15 : Byte).toNat ≤ 15 ∧
      2 < 2 + (7 + (params.bufCap - 1) - 1) / (params.bufCap - 1) ∧
      ∀ k, (ready (List.replicate k .success ++ [.failure 0])).ready = true ∧
        (ready (List.replicate k .success ++ [.failure 0])).TransportFailsAfter k :=
  ⟨witness_params.1, rfl, by decide, by decide, by decide, fun _ => ⟨rfl, 0, [], rfl⟩⟩

theorem witness_EngineIsNeverRefused : paramsSmall.wf ∧ (ready []).ready = true := ⟨witness_params.2.1, rfl⟩

/-- The first call, the clear-protect write, fails; and the first read of SetOutputWave fails. -/
theorem witness_DataWritesAreBracketed :
    params.wf ∧ (ready [.failure 0]).ready = true ∧ (∃ t, (setDateTime params s8 (ready [.failure 0])).state? = some t) ∧
      ∃ t, (setOutputWave params 10 (ready [.failure 0])).state? = some t :=
  ⟨witness_params.1, rfl, ⟨_, rfl⟩, _, rfl⟩

theorem witness_EngineKeepsInvariant :
    settled.Inv ∧ (∃ t, (engineInit settled).state? = some t) ∧ (∃ t, (engineDeInit settled).state? = some t) :=
  ⟨settled_inv, ⟨_, rfl⟩, _, rfl⟩

theorem witness_FailureKindsAreTreatedAlike :
    [Answer.success, .failure 0].map Answer.isSuccess = [Answer.success, .failure 1].map Answer.isSuccess := rfl

/-- The last access inside the map and the first one past it; the smallest data write outside the bracket. -/
theorem witness_AccessesWithoutMeaningAreRefused :
    State.reset.ready = false ∧
      ((ready [.success]).TransportSucceeds 1 ∧ mapSize < { ready [.success] with pointer := 0x14 }.pointer + 2) ∧
      ([1] : List Byte) ≠ [] ∧ mapSize < (0x15 : Byte).toNat + [1].length ∧ (0x14 : Byte).toNat + [1].length ≤ mapSize ∧
      ¬ { unlocked [.success] with store := Memory.write [] 7 0x80 }.unprotected params ∧
      ¬ ((0x14 : Byte).toNat = params.addrSt1 ∧ [1].length = 1) :=
  ⟨rfl, ⟨⟨[], rfl⟩, by decide⟩, by decide, by decide, by decide,
    by simp [State.unprotected, params, Memory.read_write], by decide⟩

/-- The seventh chunk of a two-Byte buffer failing, without and with re-protection, the set-protect write answered either way. -/
theorem witness_ReprotectAfterAnyFailedChunk (after : Answer) :
    ({ paramsSmall with reprotectOnFailure := false }.wf ∧ paramsSmall.wf ∧ paramsSmall.reprotectOnFailure = true) ∧
      validDateTime s8 = true ∧ 6 * (paramsSmall.bufCap - 1) < 7 ∧
      (ready (List.replicate 7 .success ++ [.failure 0, after])).ready = true ∧
      (ready (List.replicate 7 .success ++ [.failure 0, after])).answers =
        List.replicate (1 + 6) Answer.success ++ Answer.failure 0 :: [after] :=
  ⟨by decide, by decide, by decide, rfl, rfl⟩

end Sys2Proof.Tests
end

section
/-! PROOFS. Family 10_state.md: what a transaction depends on (10_state.md R31). -/
namespace Sys2Proof.Machine

/-- What a step does when the command word on port `cmd` is an operation's: its result, from the operand ports alone. -/
theorem step_of_operation {s : State} {i : Instr} (h : decode s.cmd = .operation i) :
    step s = .next { s with out := some (resultOf i s.a s.f s.va) } := by
  rw [step, h]
  exact exec_eq i s

/-- What a step does when the command word on port `cmd` is reserved (30_encoding.md R56). -/
theorem step_of_reserved {s : State} {why : Reserved} (h : decode s.cmd = .reserved why) :
    step s = .refused (.reservedCommand why) := by
  rw [step, h]

/-- Settles O8, by cases on what the command word decodes to: presenting a transaction fixes every port that decoding
and the result read, so the state it is presented in leaves no trace in the result. -/
theorem equalTransactionsGiveEqualResults : Obligations.EqualTransactionsGiveEqualResults := by
  intro s t x
  cases h : decode x.cmd with
  | operation i =>
    exact .inl ⟨resultOf i x.a x.f x.va, step_of_operation (s := s.present x) h, step_of_operation (s := t.present x) h⟩
  | reserved why =>
    exact .inr ⟨why, step_of_reserved (s := s.present x) h, step_of_reserved (s := t.present x) h⟩

end Sys2Proof.Machine
end

section
/-! PROOFS. Family 20_memory.md: transactions do not interfere (20_memory.md R48). -/
namespace Sys2Proof.Machine

/-- A transaction that completes in one state completes in every state, with the same result: the block keeps nothing
from one transaction to the next (10_state.md R31), and a completed one was not of a reserved word. -/
theorem present_completes_alike {s sx : State} {x : Transaction} (h : step (s.present x) = .next sx) (t : State) :
    ∃ tx, step (t.present x) = .next tx ∧ tx.out = sx.out := by
  obtain ⟨r, hs, ht⟩ | ⟨why, hs, -⟩ := equalTransactionsGiveEqualResults s t x
  · obtain rfl : { s.present x with out := some r } = sx := Host.Outcome.next.inj (hs.symm.trans h)
    exact ⟨_, ht, rfl⟩
  · exact nomatch hs.symm.trans h

/-- Settles O9: each transaction's result does not depend on the state it is presented in, so it is the same before and
after the other one, and on a second copy of the block. -/
theorem transactionsCommute : Obligations.TransactionsCommute := by
  intro s s' x y sx sxy hx hy
  obtain ⟨sy, hsy, outSy⟩ := present_completes_alike hy s
  obtain ⟨syx, hsyx, outSyx⟩ := present_completes_alike hx sy
  obtain ⟨s'y, hs'y, outS'y⟩ := present_completes_alike hy s'
  exact ⟨sy, syx, s'y, hsy, hsyx, hs'y, outSy, outSyx, outS'y⟩

end Sys2Proof.Machine
end

section
/-! PROOFS. Family 30_encoding.md: which operation a command word selects (30_encoding.md R54). -/
namespace Sys2Proof

/-! ## Decoding, one format at a time (30_encoding.md R51, R52) -/

theorem decodeZ_eq_operation {i j : Instr} {arg : Nibble} : decodeZ j arg = .operation i ↔ j = i ∧ arg = 0 := by
  unfold decodeZ
  split
  case isTrue h => simp [h]
  case isFalse h => exact ⟨nofun, fun ⟨_, h0⟩ => absurd h0 h⟩

theorem decodeB_eq_operation {op : Fin 8 → Instr} {i : Instr} {arg : Nibble} :
    decodeB op arg = .operation i ↔ ∃ n, op n = i ∧ arg = BitVec.ofNat 4 n.val := by
  constructor
  · intro h
    by_cases hlt : arg.toNat < 8
    · exact ⟨⟨arg.toNat, hlt⟩, by simpa [decodeB, hlt] using h, by simp⟩
    · simp [decodeB, hlt] at h
  · rintro ⟨n, rfl, rfl⟩
    have hn : n.val % 16 = n.val := Nat.mod_eq_of_lt (by omega)
    simp [decodeB, hn]

theorem decodeN_eq_operation {op : NibbleSel → Instr} {i : Instr} {arg : Nibble} :
    decodeN op arg = .operation i ↔ ∃ sel, op sel = i ∧ arg = sel.bit := by
  constructor
  · intro h
    by_cases hlt : arg.toNat < 2
    · obtain rfl | rfl : arg = NibbleSel.lo.bit ∨ arg = NibbleSel.hi.bit := by
        simp only [NibbleSel.bit]; bv_omega
      · exact ⟨.lo, Decoded.operation.inj h, rfl⟩
      · exact ⟨.hi, Decoded.operation.inj h, rfl⟩
    · simp [decodeN, hlt] at h
  · rintro ⟨sel, rfl, rfl⟩
    cases sel <;> rfl

@[simp] theorem decodeZ_ne_reserved_opcode (i : Instr) (arg : Nibble) : decodeZ i arg ≠ .reserved .opcode := by
  unfold decodeZ
  split <;> simp

@[simp] theorem decodeB_ne_reserved_opcode (op : Fin 8 → Instr) (arg : Nibble) : decodeB op arg ≠ .reserved .opcode := by
  unfold decodeB
  split <;> simp

@[simp] theorem decodeN_ne_reserved_opcode (op : NibbleSel → Instr) (arg : Nibble) : decodeN op arg ≠ .reserved .opcode := by
  unfold decodeN
  split <;> simp

/-! ## Decoding as a whole -/

/-- A word that decodes to an operation carries its opcode and its argument. -/
theorem fields_of_decode {c : Byte} {i : Instr} (h : decode c = .operation i) : opcodeOf c = i.opcode ∧ argOf c = i.arg := by
  unfold decode at h
  split at h
  case h_1 hop | h_2 hop | h_8 hop | h_9 hop | h_10 hop | h_11 hop | h_12 hop | h_13 hop | h_14 hop =>
    obtain ⟨rfl, harg⟩ := decodeZ_eq_operation.1 h
    exact ⟨BitVec.eq_of_toNat_eq hop, harg⟩
  case h_3 hop | h_4 hop =>
    obtain ⟨n, rfl, harg⟩ := decodeB_eq_operation.1 h
    exact ⟨BitVec.eq_of_toNat_eq hop, harg⟩
  case h_5 hop | h_6 hop | h_7 hop =>
    obtain ⟨sel, rfl, harg⟩ := decodeN_eq_operation.1 h
    exact ⟨BitVec.eq_of_toNat_eq hop, harg⟩
  case h_15 => cases h

/-- A word that carries an operation's opcode and argument decodes to it. -/
theorem decode_of_fields {c : Byte} {i : Instr} (hop : opcodeOf c = i.opcode) (harg : argOf c = i.arg) :
    decode c = .operation i := by
  unfold decode
  rw [hop]
  cases i with
  | d2b | b2d | pksec | upsec | pkdt | updt | pkwave | chkdt | chkwave => exact decodeZ_eq_operation.2 ⟨rfl, harg⟩
  | bclr n | bset n => exact decodeB_eq_operation.2 ⟨n, rfl, harg⟩
  | nclr sel | nset sel | nins sel => exact decodeN_eq_operation.2 ⟨sel, rfl, harg⟩

theorem decode_eq_operation_iff {c : Byte} {i : Instr} :
    decode c = .operation i ↔ opcodeOf c = i.opcode ∧ argOf c = i.arg :=
  ⟨fields_of_decode, fun ⟨hop, harg⟩ => decode_of_fields hop harg⟩

/-- The opcodes 0xE and 0xF, and no others, are free (30_encoding.md R54). -/
theorem decode_eq_reserved_opcode_iff {c : Byte} : decode c = .reserved .opcode ↔ 0xE ≤ (opcodeOf c).toNat := by
  unfold decode
  split
  case h_15 =>
    simp only [imp_false] at *
    simp only [true_iff]
    omega
  all_goals
    rename_i hop
    simp [hop]

/-! ## The argument, bit by bit (30_encoding.md R52) -/

/-- Format B: the argument is the bit index in `cmd[2:0]` under a zero in `cmd[3]`. -/
theorem argOf_eq_bitIndex_iff {c : Byte} {n : Fin 8} :
    argOf c = BitVec.ofNat 4 n.val ↔ c.getLsbD 3 = false ∧ n.val = (c.extractLsb' 0 3).toNat := by
  have hbit : c.getLsbD 3 = decide (c.toNat / 8 % 2 = 1) := by simp [BitVec.getLsbD, Nat.testBit_eq_decide_div_mod_eq]
  simp only [argOf, hbit, BitVec.toNat_eq, BitVec.extractLsb'_toNat, BitVec.toNat_ofNat, Nat.shiftRight_zero, decide_eq_false_iff_not]
  omega

/-- Format N: the argument is the nibble select in `cmd[0]` under zeros in `cmd[3:1]`. -/
theorem argOf_eq_nibbleSel_iff {c : Byte} {sel : NibbleSel} :
    argOf c = sel.bit ↔ c.extractLsb' 1 3 = 0 ∧ (sel = .hi ↔ c.getLsbD 0 = true) := by
  have hbit : c.getLsbD 0 = decide (c.toNat % 2 = 1) := by simp [BitVec.getLsbD, Nat.testBit_eq_decide_div_mod_eq]
  simp only [argOf, hbit, BitVec.toNat_eq, BitVec.extractLsb'_toNat, Nat.shiftRight_eq_div_pow,
    decide_eq_true_eq]
  cases sel with
  | lo => simp only [NibbleSel.bit, reduceCtorEq, false_iff]; bv_omega
  | hi => simp only [NibbleSel.bit, true_iff]; bv_omega

/-! ## How many words are legal -/

/-- Of the 16 words of one opcode, format Z has 1 legal word, format B 8, format N 2, and a free opcode none. -/
theorem countP_legal_words_by_opcode :
    (List.range 16).map (fun o => (List.range 16).countP (fun arg => (decodeTableWord 8 (16 * o + arg)).isSome)) =
      [1, 1, 8, 8, 2, 2, 2, 1, 1, 1, 1, 1, 1, 1, 0, 0] := by decide

theorem range_mul_eq_flatMap (k m : Nat) :
    List.range (k * m) = (List.range m).flatMap (fun o => (List.range k).map (fun arg => k * o + arg)) := by
  induction m with
  | zero => rfl
  | succ m ih => simp [Nat.mul_succ, List.range_add, List.range_succ, ih]

theorem countP_legal_words : (List.range 256).countP (fun w => (decodeTableWord 8 w).isSome) = 31 := by
  rw [show 256 = 16 * 16 from rfl, range_mul_eq_flatMap, List.countP_flatMap]
  simp only [Function.comp_def, List.countP_map, countP_legal_words_by_opcode]
  rfl

/-- The reserved words are the others of the 256. -/
theorem countP_reserved_words : (List.range 256).countP (fun w => (decodeTableWord 8 w).isNone) = 225 := by
  have hsum := List.length_eq_countP_add_countP (fun w => (decodeTableWord 8 w).isSome) (l := List.range 256)
  simp only [List.length_range, countP_legal_words, Bool.not_eq_true, Option.isSome_eq_false_iff, Bool.decide_eq_true] at hsum
  omega

/-- Settles O3: a word decodes to an operation exactly when its two fields are the operation's, and the argument field is
read bit by bit, one case per format. -/
theorem legalWordsSelectByOpcodeAndArgument : Obligations.LegalWordsSelectByOpcodeAndArgument := by
  refine ⟨fun c i => ?_, fun c => decode_eq_reserved_opcode_iff, countP_legal_words, countP_reserved_words⟩
  rw [decode_eq_operation_iff]
  refine and_congr eq_comm ?_
  cases i with
  | d2b | b2d | pksec | upsec | pkdt | updt | pkwave | chkdt | chkwave => exact Iff.rfl
  | bclr n | bset n => exact argOf_eq_bitIndex_iff
  | nclr sel | nset sel | nins sel => exact argOf_eq_nibbleSel_iff

end Sys2Proof
end

section
/-! PROOFS. Family 40_bcd_converters.md: the converters on and off their domains, and the laws between them
(40_bcd_converters.md R64 to R68). -/
namespace Sys2Proof.Machine

/-! ## Command words and answers -/

/-- The command word of an operation selects it (30_encoding.md R50). -/
theorem decode_encode (i : Instr) : decode (encode i) = .operation i :=
  decode_of_fields (hiNibble_ofNibbles i.opcode i.arg) (loNibble_ofNibbles i.opcode i.arg)

/-- A Byte is the answer on port `y` exactly when it is the operation's result on the operands presented. -/
theorem answersY_iff {s : State} {i : Instr} {a : Byte} {f : Nibble} {y : Byte} :
    AnswersY s i a f y ↔ resultOf i a f s.va = .y y := by
  rw [AnswersY, step_of_operation (s := s.presentScalar i a f) (decode_encode i)]
  constructor
  · intro h
    exact Option.some.inj (congrArg State.out (Host.Outcome.next.inj h))
  · intro h
    simp [h, State.setY]

@[simp] theorem answersY_d2b_iff {s : State} {f : Nibble} {v b : Byte} : AnswersY s .d2b v f b ↔ d2b v = b := by
  simp [answersY_iff, resultOf]

@[simp] theorem answersY_b2d_iff {s : State} {f : Nibble} {b v : Byte} : AnswersY s .b2d b f v ↔ b2d b = v := by
  simp [answersY_iff, resultOf]

/-! ## The digits of a Byte -/

theorem toNat_eq_nibbles (b : Byte) : b.toNat = 16 * (hiNibble b).toNat + (loNibble b).toNat := by
  rw [← toNat_ofNibbles, ofNibbles_nibbles]

/-- Two Bytes with the same digits are the same. -/
theorem eq_of_nibbles {b c : Byte} (hi : (hiNibble b).toNat = (hiNibble c).toNat)
    (lo : (loNibble b).toNat = (loNibble c).toNat) : b = c :=
  BitVec.eq_of_toNat_eq (by rw [toNat_eq_nibbles b, toNat_eq_nibbles c, hi, lo])

/-- The top bit is set in the upper half of the Bytes. -/
theorem clockHalt_iff {b : Byte} : clockHalt b = true ↔ 128 ≤ b.toNat := by
  have hmsb : clockHalt b = b.msb := (BitVec.msb_eq_getLsbD_last b).symm
  simp [hmsb, BitVec.msb_eq_decide]

/-! ## Each converter on its domain (40_bcd_converters.md R64, R66) -/

theorem hiNibble_d2b {v : Byte} (h : inDomD2b v) : (hiNibble (d2b v)).toNat = v.toNat / 10 := by
  rw [d2b_of_dom h, hiNibble_ofNibbles, BitVec.toNat_ofNat]
  omega

theorem loNibble_d2b {v : Byte} (h : inDomD2b v) : (loNibble (d2b v)).toNat = v.toNat % 10 := by
  rw [d2b_of_dom h, loNibble_ofNibbles, BitVec.toNat_ofNat]
  omega

/-- The closed form: each ten counts 16 in place of 10. -/
theorem toNat_d2b {v : Byte} (h : inDomD2b v) : (d2b v).toNat = v.toNat + 6 * (v.toNat / 10) := by
  rw [toNat_eq_nibbles, hiNibble_d2b h, loNibble_d2b h]
  omega

theorem toNat_b2d {b : Byte} (h : inDomB2d b) : (b2d b).toNat = 10 * (hiNibble b).toNat + (loNibble b).toNat := by
  obtain ⟨hhi, hlo⟩ := h
  rw [b2d_of_dom ⟨hhi, hlo⟩, BitVec.toNat_ofNat]
  omega

/-- D2B answers digits (40_bcd_converters.md R65, item 1). -/
theorem inDomB2d_d2b {v : Byte} (h : inDomD2b v) : inDomB2d (d2b v) := by
  rw [inDomB2d, hiNibble_d2b h, loNibble_d2b h]
  omega

/-- Two digits make a number up to 99. -/
theorem inDomD2b_b2d {b : Byte} (h : inDomB2d b) : inDomD2b (b2d b) := by
  rw [inDomD2b, toNat_b2d h]
  omega

/-! ## The laws between the converters (40_bcd_converters.md R67, R68) -/

theorem b2d_d2b {v : Byte} (h : inDomD2b v) : b2d (d2b v) = v := by
  apply BitVec.eq_of_toNat_eq
  rw [toNat_b2d (inDomB2d_d2b h), hiNibble_d2b h, loNibble_d2b h]
  exact Nat.div_add_mod v.toNat 10

theorem d2b_b2d {b : Byte} (h : inDomB2d b) : d2b (b2d b) = b := by
  have hv := inDomD2b_b2d h
  apply eq_of_nibbles
  · rw [hiNibble_d2b hv, toNat_b2d h]
    omega
  · rw [loNibble_d2b hv, toNat_b2d h]
    omega

/-! ## D2B on its domain (40_bcd_converters.md R65) -/

theorem d2b_lt_d2b {v w : Byte} (hlt : v.toNat < w.toNat) (hw : inDomD2b w) : (d2b v).toNat < (d2b w).toNat := by
  have hv : inDomD2b v := (hlt.trans_le hw).le
  rw [toNat_d2b hv, toNat_d2b hw]
  omega

/-- D2B is injective, for B2D undoes it. -/
theorem eq_of_d2b_eq {v w : Byte} (hv : inDomD2b v) (hw : inDomD2b w) (h : d2b v = d2b w) : v = w := by
  rw [← b2d_d2b hv, h, b2d_d2b hw]

theorem clockHalt_d2b_iff {v : Byte} (h : inDomD2b v) : clockHalt (d2b v) = true ↔ 80 ≤ v.toNat := by
  rw [clockHalt_iff, toNat_d2b h]
  omega

/-- A decimal digit is spelled alike in every base from 10 on. -/
theorem digits_of_digit {base d : ℕ} (hbase : 10 ≤ base) (hd : d < 10) : Nat.digits base d = Nat.digits 10 d := by
  rcases Nat.eq_zero_or_pos d with rfl | hpos
  · simp
  · rw [Nat.digits_of_lt base d hpos.ne' (hd.trans_le hbase), Nat.digits_of_lt 10 d hpos.ne' hd]

/-- Two decimal digits read in a base from 10 on are spelled there as they are in decimal. -/
theorem digits_of_two_digits {base t o : ℕ} (hbase : 10 ≤ base) (ht : t < 10) (ho : o < 10) :
    Nat.digits base (o + base * t) = Nat.digits 10 (o + 10 * t) := by
  by_cases hne : o ≠ 0 ∨ t ≠ 0
  · rw [Nat.digits_add base (by omega) o t (by omega) hne, Nat.digits_add 10 (by omega) o t ho hne,
      digits_of_digit hbase ht]
  · obtain ⟨rfl, rfl⟩ : o = 0 ∧ t = 0 := by omega
    simp

/-- The hexadecimal spelling of the answer is the decimal spelling of the operand (40_bcd_converters.md R65, item 5). -/
theorem digits_d2b {v : Byte} (h : inDomD2b v) : Nat.digits 16 (d2b v).toNat = Nat.digits 10 v.toNat := by
  have hanswer : (d2b v).toNat = v.toNat % 10 + 16 * (v.toNat / 10) := by rw [toNat_d2b h]; omega
  calc Nat.digits 16 (d2b v).toNat
      _ = Nat.digits 16 (v.toNat % 10 + 16 * (v.toNat / 10)) := by rw [hanswer]
      _ = Nat.digits 10 (v.toNat % 10 + 10 * (v.toNat / 10)) :=
        digits_of_two_digits (by omega) (by omega) (by omega)
      _ = Nat.digits 10 v.toNat := by rw [Nat.mod_add_div]

/-! ## The statements -/

/-- Settles O14, item by item from the digits of the answer; the image is full because B2D gives a preimage. -/
theorem decimalToBcdOnItsDomain : Obligations.DecimalToBcdOnItsDomain := by
  intro s f
  simp only [answersY_d2b_iff]
  refine ⟨fun v hv => ?_, ?_, ?_, fun b hhi hlo => ?_⟩
  · obtain ⟨hhi, hlo⟩ := inDomB2d_d2b hv
    exact ⟨d2b v, rfl, hhi, hlo, clockHalt_d2b_iff hv, digits_d2b hv⟩
  · rintro v w _ _ hlt hw rfl rfl
    exact d2b_lt_d2b hlt hw
  · intro v w b hv hw hb hb'
    exact eq_of_d2b_eq hv hw (hb.trans hb'.symm)
  · exact ⟨b2d b, inDomD2b_b2d ⟨hhi, hlo⟩, d2b_b2d ⟨hhi, hlo⟩⟩

/-- Settles O15: both answers are the converters' values, and B2D reads back the digits D2B packed. -/
theorem bcdLaw : Obligations.BcdLaw := fun _ _ _ v hv =>
  ⟨d2b v, answersY_d2b_iff.2 rfl, answersY_b2d_iff.2 (b2d_d2b hv)⟩

/-- Settles O16: both answers are the converters' values, and D2B packs again the digits B2D read. -/
theorem converseBcdLaw : Obligations.ConverseBcdLaw := fun _ _ _ b hb =>
  ⟨b2d b, answersY_b2d_iff.2 rfl, answersY_d2b_iff.2 (d2b_b2d hb)⟩

/-- Settles O12: the answer's digits and closed form inside the domain, the open function outside it. -/
theorem decimalToBcdPacksDigits : Obligations.DecimalToBcdPacksDigits := by
  refine ⟨by decide, fun s => ⟨d2b s.a, exec_eq .d2b s, fun hdom => ?_, fun hout => ?_⟩⟩
  · exact ⟨hiNibble_d2b hdom, loNibble_d2b hdom, toNat_d2b hdom⟩
  · exact d2b_of_not_dom hout.not_ge

/-- Settles O13: the number the two digits make, the closed form from the Byte's own value, and the open function where a
nibble is no digit. -/
theorem bcdToDecimalReadsDigits : Obligations.BcdToDecimalReadsDigits := by
  refine ⟨by decide, fun s => ⟨b2d s.a, exec_eq .b2d s, fun hdom => ⟨toNat_b2d hdom, ?_⟩, fun hout => ?_⟩⟩
  · rw [toNat_b2d hdom, toNat_eq_nibbles s.a]
    omega
  · exact b2d_of_not_dom (by omega)

end Sys2Proof.Machine
end

section
/-! PROOFS. Family 41_bitfield_helpers.md: the bit or the nibble a helper changes, and the ones it leaves
(41_bitfield_helpers.md R72 to R76). -/
namespace Sys2Proof.Machine

/-! ## Command words of formats B and N (30_encoding.md R49 to R52) -/

theorem encode_bclr (n : Fin 8) : encode (.bclr n) = 0x20 + BitVec.ofNat 8 n := by revert n; decide

theorem encode_bset (n : Fin 8) : encode (.bset n) = 0x30 + BitVec.ofNat 8 n := by revert n; decide

/-! ## The operators and the masks, seen through one nibble (41_bitfield_helpers.md R71) -/

theorem selNibble_not (sel : NibbleSel) (b : Byte) : selNibble sel (~~~b) = ~~~selNibble sel b := by
  cases sel with
  | lo => exact BitVec.extractLsb'_not_of_lt (by decide)
  | hi =>
    ext i hi
    have hbit : 4 + i < 8 := by omega
    simp [selNibble, hiNibble, hbit]

theorem selNibble_clearBits (sel : NibbleSel) (mask b : Byte) :
    selNibble sel (clearBits mask b) = selNibble sel b &&& ~~~selNibble sel mask := by
  rw [← selNibble_not]
  cases sel <;> exact BitVec.extractLsb'_and

@[simp] theorem selNibble_setBits (sel : NibbleSel) (bits b : Byte) :
    selNibble sel (setBits bits b) = selNibble sel b ||| selNibble sel bits := by
  cases sel <;> exact BitVec.extractLsb'_or

@[simp] theorem selNibble_nibMask (sel : NibbleSel) : selNibble sel (nibMask sel) = BitVec.allOnes 4 := by
  cases sel <;> rfl

@[simp] theorem selNibble_other_nibMask (sel : NibbleSel) : selNibble sel.other (nibMask sel) = 0 := by
  cases sel <;> rfl

@[simp] theorem selNibble_nibPlace (sel : NibbleSel) (m : Nibble) : selNibble sel (nibPlace sel m) = m := by
  revert m; cases sel <;> decide

@[simp] theorem selNibble_other_nibPlace (sel : NibbleSel) (m : Nibble) : selNibble sel.other (nibPlace sel m) = 0 := by
  revert m; cases sel <;> decide

@[simp] theorem selNibble_clearBits_nibMask (sel : NibbleSel) (b : Byte) :
    selNibble sel (clearBits (nibMask sel) b) = 0 := by
  rw [selNibble_clearBits, selNibble_nibMask, BitVec.not_allOnes]
  exact BitVec.and_zero

@[simp] theorem selNibble_other_clearBits_nibMask (sel : NibbleSel) (b : Byte) :
    selNibble sel.other (clearBits (nibMask sel) b) = selNibble sel.other b := by
  rw [selNibble_clearBits, selNibble_other_nibMask]
  exact BitVec.and_allOnes

/-! ## Clearing and setting one bit (41_bitfield_helpers.md R72, R73) -/

theorem getLsbD_clearBits_bitMask (n : Fin 8) (b : Byte) {i : Nat} (hi : i < 8) :
    (clearBits (bitMask n) b).getLsbD i = if i = n.val then false else b.getLsbD i := by
  rw [getLsbD_clearBits _ _ i hi, getLsbD_bitMask n i hi]
  by_cases h : i = n.val <;> simp [h]

theorem getLsbD_setBits_bitMask (n : Fin 8) (b : Byte) {i : Nat} (hi : i < 8) :
    (setBits (bitMask n) b).getLsbD i = if i = n.val then true else b.getLsbD i := by
  rw [getLsbD_setBits, getLsbD_bitMask n i hi]
  by_cases h : i = n.val <;> simp [h]

/-! ## The statements -/

/-- Settles O17: the answer is `a` under the mask of bit `n`, read bit by bit. -/
theorem singleBitHelpersChangeOneBit : Obligations.SingleBitHelpersChangeOneBit := fun n s =>
  ⟨encode_bclr n, encode_bset n,
    ⟨clearBits (bitMask n) s.a, exec_eq (.bclr n) s, fun _ hi => getLsbD_clearBits_bitMask n s.a hi⟩,
    ⟨setBits (bitMask n) s.a, exec_eq (.bset n) s, fun _ hi => getLsbD_setBits_bitMask n s.a hi⟩⟩

/-- Settles O18: each answer is built from `a` by clearing under the nibble's mask and ORing in the placed field value; the
selected nibble sees the mask as ones and the placed value as `f`, the other nibble sees zeros. -/
theorem nibbleHelpersChangeOneNibble : Obligations.NibbleHelpersChangeOneNibble := by
  intro sel s
  refine ⟨rfl, rfl, rfl, rfl, rfl, rfl, ?nclr, ?nset, ?nins⟩
  case nclr => exact ⟨clearBits (nibMask sel) s.a, exec_eq (.nclr sel) s, by simp, by simp⟩
  case nset => exact ⟨setBits (nibPlace sel s.f) s.a, exec_eq (.nset sel) s, by simp, by simp⟩
  case nins =>
    exact ⟨setBits (nibPlace sel s.f) (clearBits (nibMask sel) s.a), exec_eq (.nins sel) s, by simp, by simp⟩

end Sys2Proof.Machine
end

section
/-! PROOFS. Family 42_regmap_pack_unpack.md: the packer, the unpacker and the range checks, and the round trips between them
(42_regmap_pack_unpack.md R82 to R92, R95). -/
namespace Sys2Proof.Machine

/-! ## Answers -/

@[simp] theorem answersY_pksec_iff {s : State} {f : Nibble} {v b : Byte} : AnswersY s .pksec v f b ↔ packSecond v = b := by
  simp [answersY_iff, resultOf]

@[simp] theorem answersY_upsec_iff {s : State} {f : Nibble} {b v : Byte} : AnswersY s .upsec b f v ↔ unpackSecond b = v := by
  simp [answersY_iff, resultOf]

/-- Seven elements are the answer on port `vy` exactly when the operation's result on the port they stand on is theirs. -/
theorem answersVy_iff {s : State} {i : Instr} {x y : Fields} :
    AnswersVy s i x y ↔ resultOf i s.a s.f x.toPort = .vy y.toPort := by
  rw [AnswersVy, step_of_operation (s := s.presentVector i x) (decode_encode i)]
  constructor
  · intro h
    exact Option.some.inj (congrArg State.out (Host.Outcome.next.inj h))
  · intro h
    simp [h, State.setVy]

/-- A vector port loses nothing of the seven elements. -/
@[simp] theorem toPort_inj {x y : Fields} : x.toPort = y.toPort ↔ x = y :=
  (Function.LeftInverse.injective ofPort_toPort).eq_iff

@[simp] theorem answersVy_pkdt_iff {s : State} {x b : Fields} : AnswersVy s .pkdt x b ↔ packFields x = b := by
  simp [answersVy_iff, resultOf]

@[simp] theorem answersVy_updt_iff {s : State} {b x : Fields} : AnswersVy s .updt b x ↔ unpackFields b = x := by
  simp [answersVy_iff, resultOf]

/-! ## The seven elements, one by one: element 0 apart from the others (42_regmap_pack_unpack.md R84, R85) -/

theorem get_packFields_of_ne_zero (x : Fields) {i : Fin 7} (hi : i ≠ 0) : (packFields x).get i = d2b (x.get i) := by
  obtain ⟨j, rfl⟩ := Fin.exists_succ_eq.2 hi
  fin_cases j <;> rfl

theorem get_unpackFields_of_ne_zero (b : Fields) {i : Fin 7} (hi : i ≠ 0) : (unpackFields b).get i = b2d (b.get i) := by
  obtain ⟨j, rfl⟩ := Fin.exists_succ_eq.2 hi
  fin_cases j <;> rfl

theorem get_withSecond_of_ne_zero (x : Fields) (v : Byte) {i : Fin 7} (hi : i ≠ 0) :
    { x with second := v }.get i = x.get i := by
  obtain ⟨j, rfl⟩ := Fin.exists_succ_eq.2 hi
  fin_cases j <;> rfl

theorem Fields.eq_of_get {x y : Fields} (hsecond : x.second = y.second) (hothers : ∀ i, i ≠ 0 → x.get i = y.get i) : x = y := by
  cases x
  cases y
  simp only [Fields.mk.injEq]
  exact ⟨hsecond, hothers 1 (by decide), hothers 2 (by decide), hothers 3 (by decide), hothers 4 (by decide),
    hothers 5 (by decide), hothers 6 (by decide)⟩

/-- What maps elements 1 to 6 of seven maps them on the vector ports too. -/
theorem elem_toPort_of_get {y : Fields} {v : VecBits} {convert : Byte → Byte}
    (hothers : ∀ i, i ≠ 0 → y.get i = convert ((Fields.ofPort v).get i)) (i : Nat) (h1 : 1 ≤ i) (h6 : i ≤ 6) :
    elem y.toPort i = convert (elem v i) := by
  lift i to Fin 7 using by omega
  have hi : i ≠ 0 := by rintro rfl; exact absurd h1 (by decide)
  rw [elem_toPort, hothers i hi, get_ofPort]

/-! ## The clock-halt mask (42_regmap_pack_unpack.md R81) -/

/-- Masking with 0x7F is BCLR #7 (42_regmap_pack_unpack.md R95). -/
theorem and_7F_eq_clearBits (b : Byte) : b &&& seconds7F = clearBits (bitMask 7) b := rfl

@[simp] theorem and_7F_and_7F (b : Byte) : b &&& seconds7F &&& seconds7F = b &&& seconds7F := by
  rw [BitVec.and_assoc, BitVec.and_self]

@[simp] theorem or_80_and_7F (b : Byte) : (b ||| 0x80) &&& seconds7F = b &&& seconds7F := by
  rw [BitVec.and_comm, BitVec.and_or_distrib_left, BitVec.and_comm seconds7F b]
  exact BitVec.or_zero

theorem toNat_and_7F (b : Byte) : (b &&& seconds7F).toNat = b.toNat % 128 :=
  Nat.and_two_pow_sub_one_eq_mod b.toNat 7

theorem toNat_hiNibble_and_7F (b : Byte) : (hiNibble (b &&& seconds7F)).toNat = (hiNibble b).toNat % 8 := by
  rw [hiNibble, BitVec.extractLsb'_and]
  exact Nat.and_two_pow_sub_one_eq_mod (hiNibble b).toNat 3

@[simp] theorem loNibble_and_7F (b : Byte) : loNibble (b &&& seconds7F) = loNibble b := by
  rw [loNibble, BitVec.extractLsb'_and]
  exact BitVec.and_allOnes

/-! ## Encoding and decoding the Second field (42_regmap_pack_unpack.md R82, R83) -/

theorem clockHalt_packSecond (v : Byte) : clockHalt (packSecond v) = false := clockHalt_and_7F (d2b v)

/-- Inside the domain of D2B, forcing bit 7 to 0 drops an 80 from the encoded value. -/
theorem packSecond_eq_d2b {v w : Byte} (hv : inDomD2b v) (hw : w.toNat = v.toNat % 80) : packSecond v = d2b w := by
  have hdom : inDomD2b w := by rw [inDomD2b, hw]; omega
  apply BitVec.eq_of_toNat_eq
  rw [packSecond, toNat_and_7F, toNat_d2b hv, toNat_d2b hdom, hw]
  omega

theorem packSecond_of_not_dom {v : Byte} (h : ¬ inDomD2b v) : packSecond v = Config.oodD2B v &&& seconds7F := by
  rw [packSecond, d2b_of_not_dom h]

/-- Masking leaves a tens digit up to 7, so the ones digit alone decides the domain. -/
theorem inDomB2d_and_7F_iff {b : Byte} : inDomB2d (b &&& seconds7F) ↔ (loNibble b).toNat ≤ 9 := by
  rw [inDomB2d, toNat_hiNibble_and_7F, loNibble_and_7F]
  omega

theorem toNat_unpackSecond {b : Byte} (h : (loNibble b).toNat ≤ 9) :
    (unpackSecond b).toNat = 10 * ((hiNibble b).toNat % 8) + (loNibble b).toNat := by
  rw [unpackSecond, toNat_b2d (inDomB2d_and_7F_iff.2 h), toNat_hiNibble_and_7F, loNibble_and_7F]

theorem unpackSecond_of_not_dom {b : Byte} (h : 9 < (loNibble b).toNat) :
    unpackSecond b = Config.oodB2D (b &&& seconds7F) :=
  b2d_of_not_dom (mt inDomB2d_and_7F_iff.1 h.not_ge)

/-- UPSEC sees only the masked Byte (42_regmap_pack_unpack.md R83). -/
@[simp] theorem unpackSecond_and_7F (b : Byte) : unpackSecond (b &&& seconds7F) = unpackSecond b := by
  rw [unpackSecond, and_7F_and_7F, unpackSecond]

@[simp] theorem unpackSecond_or_80 (b : Byte) : unpackSecond (b ||| 0x80) = unpackSecond b := by
  rw [unpackSecond, or_80_and_7F, unpackSecond]

/-! ## Round trips (42_regmap_pack_unpack.md R89, R91) -/

theorem unpackSecond_packSecond {v w : Byte} (hv : inDomD2b v) (hw : w.toNat = v.toNat % 80) :
    unpackSecond (packSecond v) = w := by
  rw [packSecond, unpackSecond_and_7F, unpackSecond, ← packSecond, packSecond_eq_d2b hv hw, b2d_d2b]
  rw [inDomD2b, hw]
  omega

theorem packSecond_unpackSecond {b : Byte} (h : inDomB2d (b &&& seconds7F)) :
    packSecond (unpackSecond b) = b &&& seconds7F := by
  rw [packSecond, unpackSecond, d2b_b2d h, and_7F_and_7F]

/-- Encode and decode keep six elements and drop an 80 from the Second. -/
theorem unpackFields_packFields {x : Fields} {w : Byte} (hx : ∀ i, inDomD2b (x.get i)) (hw : w.toNat = x.second.toNat % 80) :
    unpackFields (packFields x) = { x with second := w } := by
  apply Fields.eq_of_get
  case hsecond => exact unpackSecond_packSecond (hx 0) hw
  case hothers =>
    intro i hi
    rw [get_unpackFields_of_ne_zero _ hi, get_packFields_of_ne_zero _ hi, get_withSecond_of_ne_zero x w hi, b2d_d2b (hx i)]

theorem packFields_unpackFields {b : Fields} (hsecond : inDomB2d (b.second &&& seconds7F))
    (hothers : ∀ i, i ≠ 0 → inDomB2d (b.get i)) :
    packFields (unpackFields b) = { b with second := b.second &&& seconds7F } := by
  apply Fields.eq_of_get
  case hsecond => exact packSecond_unpackSecond hsecond
  case hothers =>
    intro i hi
    rw [get_packFields_of_ne_zero _ hi, get_unpackFields_of_ne_zero _ hi, get_withSecond_of_ne_zero b (b.second &&& seconds7F) hi,
      d2b_b2d (hothers i hi)]

/-! ## The range checks (42_regmap_pack_unpack.md R87, R88) -/

/-- A valid DateTime lies in the domain of D2B. -/
theorem inDomD2b_of_validDateTime {x : Fields} (h : validDateTime x = true) (i : Fin 7) : inDomD2b (x.get i) := by
  obtain ⟨hsecond, hminute, hhour, ⟨-, hweekDay⟩, ⟨-, hday⟩, ⟨-, hmonth⟩, hyear⟩ := (validDateTime_iff x).1 h
  fin_cases i <;> simp only [Fields.get, inDomD2b] <;> omega

theorem validWave_iff {m : Byte} : validWave m = true ↔ m.toNat ≤ 15 := by
  simp [validWave, inRange_iff]

theorem hiNibble_eq_zero_iff {b : Byte} : hiNibble b = 0 ↔ b.toNat ≤ 15 := by
  rw [toNat_eq_nibbles]
  bv_omega

/-! ## The wave field (42_regmap_pack_unpack.md R86) -/

/-- PKWAVE joins the high nibble of `a` with `f`: it is NINS #lo, which the helpers' laws read nibble by nibble. -/
theorem pkwave_eq_ofNibbles (a : Byte) (f : Nibble) : (a &&& 0xF0) ||| zext8 f = ofNibbles (hiNibble a) f := by
  change setBits (nibPlace .lo f) (clearBits (nibMask .lo) a) = _
  have hlo : selNibble .lo (setBits (nibPlace .lo f) (clearBits (nibMask .lo) a)) = f := by simp
  have hhi : selNibble (NibbleSel.other .lo) (setBits (nibPlace .lo f) (clearBits (nibMask .lo) a)) =
      selNibble (NibbleSel.other .lo) a := by simp
  rw [← ofNibbles_nibbles (setBits _ _)]
  exact congrArg₂ ofNibbles hhi hlo

@[simp] theorem answersY_pkwave_iff {s : State} {a y : Byte} {f : Nibble} :
    AnswersY s .pkwave a f y ↔ ofNibbles (hiNibble a) f = y := by
  rw [answersY_iff, resultOf, pkwave_eq_ofNibbles, Result.y.injEq]

/-! ## The statements -/

/-- Settles O23: the answer is D2B's under the mask of bit 7, read bit by bit; on the domain the mask drops an 80. -/
theorem packSecondForcesClockHaltClear : Obligations.PackSecondForcesClockHaltClear := by
  refine ⟨rfl, fun s => ⟨d2b s.a, packSecond s.a, answersY_d2b_iff.2 rfl, exec_eq .pksec s, clockHalt_packSecond s.a,
    ?lowBits, ?valid, ?from80, ?outside⟩⟩
  case lowBits =>
    intro i hi
    rw [packSecond, and_7F_eq_clearBits, getLsbD_clearBits_bitMask 7 _ (by omega)]
    exact if_neg hi.ne
  case valid =>
    intro h
    exact packSecond_eq_d2b (h.trans (by decide)) (by omega)
  case from80 =>
    intro h80 h99
    exact answersY_d2b_iff.2 (packSecond_eq_d2b h99 (by bv_omega)).symm
  case outside =>
    intro h
    exact packSecond_of_not_dom (Nat.not_le.2 h)

/-- Settles O24: the answer depends on the masked Byte alone, and masking leaves a tens digit up to 7. -/
theorem unpackSecondIgnoresClockHalt : Obligations.UnpackSecondIgnoresClockHalt :=
  ⟨rfl, fun s => ⟨unpackSecond s.a, exec_eq .upsec s, answersY_b2d_iff.2 rfl,
    answersY_upsec_iff.2 (unpackSecond_or_80 s.a), answersY_upsec_iff.2 (unpackSecond_and_7F s.a),
    toNat_unpackSecond, unpackSecond_of_not_dom⟩⟩

/-- Settles O25: each element of the result is read back from the port it was put on. -/
theorem vectorOperationsWorkElementwise : Obligations.VectorOperationsWorkElementwise := by
  refine ⟨rfl, rfl, fun s => ⟨?pkdt, ?updt⟩⟩
  case pkdt =>
    exact ⟨_, exec_eq .pkdt s, elem_toPort _ 0, elem_toPort_of_get fun _ hi => get_packFields_of_ne_zero _ hi⟩
  case updt =>
    exact ⟨_, exec_eq .updt s, elem_toPort _ 0, elem_toPort_of_get fun _ hi => get_unpackFields_of_ne_zero _ hi⟩

/-- Settles O26: element 0 of the vector operations is PKSEC or UPSEC, the others are the converters, and the mask of both
is BCLR #7. -/
theorem vectorOperationsAreScalarOnes : Obligations.VectorOperationsAreScalarOnes := by
  refine fun s f => ⟨fun x => ?pkdt, fun b => ?updt, fun a => ?pksec, fun a => ?upsec⟩
  case pkdt =>
    exact ⟨packFields x, answersVy_pkdt_iff.2 rfl, answersY_pksec_iff.2 rfl, fun i hi =>
      answersY_d2b_iff.2 (get_packFields_of_ne_zero x hi).symm⟩
  case updt =>
    exact ⟨unpackFields b, answersVy_updt_iff.2 rfl, answersY_upsec_iff.2 rfl, fun i hi =>
      answersY_b2d_iff.2 (get_unpackFields_of_ne_zero b hi).symm⟩
  case pksec =>
    exact ⟨d2b a, packSecond a, answersY_d2b_iff.2 rfl,
      answersY_iff.2 (congrArg Result.y (and_7F_eq_clearBits (d2b a)).symm), answersY_pksec_iff.2 rfl⟩
  case upsec =>
    exact ⟨a &&& seconds7F, unpackSecond a, answersY_iff.2 (congrArg Result.y (and_7F_eq_clearBits a).symm),
      answersY_b2d_iff.2 rfl, answersY_upsec_iff.2 rfl⟩

/-- Settles O27: decoding reads back every encoded element, the Second modulo 80. -/
theorem dateTimeRoundTrip : Obligations.DateTimeRoundTrip := by
  intro s t x
  simp only [answersVy_pkdt_iff, answersVy_updt_iff, exists_eq_left']
  refine ⟨fun hvalid => ?valid, fun hdom h79 => ?upTo79, fun hdom (h80 : 80 ≤ x.second.toNat) => ?from80⟩
  case valid =>
    obtain ⟨hsecond, -⟩ := (validDateTime_iff x).1 hvalid
    exact unpackFields_packFields (inDomD2b_of_validDateTime hvalid) (by omega)
  case upTo79 =>
    exact unpackFields_packFields hdom (Nat.mod_eq_of_lt (Nat.lt_succ_of_le h79)).symm
  case from80 =>
    have h99 : x.second.toNat ≤ 99 := hdom 0
    exact unpackFields_packFields hdom (by bv_omega)

/-- Settles O28: both encodes put the Second through the mask. -/
theorem encodedClockHaltIsZero : Obligations.EncodedClockHaltIsZero :=
  ⟨fun _ a _ => ⟨packSecond a, answersY_pksec_iff.2 rfl, clockHalt_packSecond a⟩,
    fun _ x => ⟨packFields x, answersVy_pkdt_iff.2 rfl, clockHalt_packSecond x.second⟩⟩

/-- Settles O29: encoding packs again the digits that decoding read, the Second's from the masked Byte. -/
theorem bufferRoundTrip : Obligations.BufferRoundTrip := fun _ _ b hsecond hothers =>
  ⟨unpackFields b, answersVy_updt_iff.2 rfl, answersVy_pkdt_iff.2 (packFields_unpackFields hsecond hothers)⟩

/-- Settles O31: the answer is the Byte of `a`'s high nibble and the field, so the last field written stands. -/
theorem waveFieldLaws : Obligations.WaveFieldLaws := by
  intro s a f g
  refine ⟨⟨ofNibbles (hiNibble a) f, ofNibbles (hiNibble a) g, ?_⟩, answersY_pkwave_iff.2 (ofNibbles_nibbles a)⟩
  simp

/-- Settles O30: PKWAVE computes NINS #lo, which is NCLR #lo and then NSET #lo; its nibbles are `a`'s high one and `f`. -/
theorem packWaveReplacesLowNibble : Obligations.PackWaveReplacesLowNibble := by
  refine ⟨rfl, fun s => ⟨(s.a &&& 0xF0) ||| zext8 s.f, clearBits (nibMask .lo) s.a, exec_eq .pkwave s, ?lo, ?hi,
    answersY_iff.2 rfl, answersY_iff.2 rfl, answersY_iff.2 rfl⟩⟩
  case lo => rw [pkwave_eq_ofNibbles, loNibble_ofNibbles]
  case hi => rw [pkwave_eq_ofNibbles, hiNibble_ofNibbles]

/-- Settles O32: the verdict is the seven ranges of the elements on `va`, each within the domain of D2B. -/
theorem checkDateTimeVerdict : Obligations.CheckDateTimeVerdict := by
  refine ⟨rfl, fun s => ⟨validDateTime (Fields.ofPort s.va), exec_eq .chkdt s, ?ranges, fun hvalid i => ?domain⟩⟩
  case ranges => simp only [validDateTime_iff, Fields.ofPort, and_assoc]
  case domain =>
    rw [← get_ofPort]
    exact inDomD2b_of_validDateTime hvalid i

/-- Settles O33: the range of the verdict is the Bytes whose high nibble is zero. -/
theorem checkWaveVerdict : Obligations.CheckWaveVerdict :=
  ⟨rfl, fun s => ⟨validWave s.a, exec_eq .chkwave s, validWave_iff, validWave_iff.trans hiNibble_eq_zero_iff.symm⟩⟩

end Sys2Proof.Machine
end

section
/-! PROOFS. Family other, the command word and the block: decode and encode (30_encoding.md R50 to R62), and what a
transaction does in every state (10_state.md R18). -/
namespace Sys2Proof

/-! ## Decode and encode (30_encoding.md R50 to R54) -/

/-- A word is the command word of the operation it decodes to: it is its two nibbles, and they are the operation's. -/
theorem encode_of_decode {c : Byte} {i : Instr} (h : decode c = .operation i) : encode i = c := by
  obtain ⟨hop, harg⟩ := fields_of_decode h
  calc encode i
      _ = Machine.ofNibbles (opcodeOf c) (argOf c) := by rw [hop, harg]; rfl
      _ = c := Machine.ofNibbles_nibbles c

theorem decode_eq_iff_encode_eq {c : Byte} {i : Instr} : decode c = .operation i ↔ encode i = c := by
  constructor
  · exact encode_of_decode
  · rintro rfl
    exact Machine.decode_encode i

/-- Settles O2: encoding joins the two fields that decoding takes apart. -/
theorem decodeInvertsEncode : Obligations.DecodeInvertsEncode :=
  ⟨Machine.decode_encode, fun _ _ => encode_of_decode⟩

/-- Settles O1, by evaluating the decoder on each word. -/
theorem writtenOutWordsDecode : Obligations.WrittenOutWordsDecode := by
  unfold Obligations.WrittenOutWordsDecode
  decide

/-! ## The opcode table (30_encoding.md R61, R62) -/

/-- Every operation has a row of the table, which its command word selects. -/
theorem exists_row_of_instr (i : Instr) : ∃ row ∈ opcodeTable, row.mnemonic = i.mnemonic ∧ row.selects (encode i) = true := by
  have statement : Laws.TableRow.Statement i := by
    cases i with
    | d2b => exact Laws.TableRow.d2b
    | b2d => exact Laws.TableRow.b2d
    | bclr n => exact Laws.TableRow.bclr n
    | bset n => exact Laws.TableRow.bset n
    | nclr s => exact Laws.TableRow.nclr s
    | nset s => exact Laws.TableRow.nset s
    | nins s => exact Laws.TableRow.nins s
    | pksec => exact Laws.TableRow.pksec
    | upsec => exact Laws.TableRow.upsec
    | pkdt => exact Laws.TableRow.pkdt
    | updt => exact Laws.TableRow.updt
    | pkwave => exact Laws.TableRow.pkwave
    | chkdt => exact Laws.TableRow.chkdt
    | chkwave => exact Laws.TableRow.chkwave
  obtain ⟨row, hrow, hname, -, -, hsel⟩ := statement
  exact ⟨row, hrow, hname, hsel⟩

/-- A mnemonic names one row. -/
theorem row_eq_of_mnemonic_eq :
    ∀ row ∈ opcodeTable, ∀ row' ∈ opcodeTable, row.mnemonic = row'.mnemonic → row = row' := by decide

/-- The mask of format Z leaves the whole word. -/
theorem eq_of_and_FF {c v : Byte} (h : c &&& 0xFF = v) : v = c := by
  rw [← h]
  exact BitVec.and_allOnes

/-- Under the mask of format B a word is free in its bit index only. -/
theorem exists_bitIndex_of_and_F8 {c v : Byte} (h : c &&& 0xF8 = v) : ∃ n : Fin 8, v + BitVec.ofNat 8 n = c := by
  subst h
  revert c
  decide

/-- Under the mask of format N a word is free in its nibble select only. -/
theorem exists_nibbleSel_of_and_FE {c v : Byte} (h : c &&& 0xFE = v) : ∃ sel : NibbleSel, v + sel.bit.setWidth 8 = c := by
  have hbit : v + NibbleSel.lo.bit.setWidth 8 = c ∨ v + NibbleSel.hi.bit.setWidth 8 = c := by
    subst h
    revert c
    decide
  obtain hlo | hhi := hbit
  · exact ⟨.lo, hlo⟩
  · exact ⟨.hi, hhi⟩

theorem encode_nclr (sel : NibbleSel) : encode (.nclr sel) = 0x40 + sel.bit.setWidth 8 := by cases sel <;> decide

theorem encode_nset (sel : NibbleSel) : encode (.nset sel) = 0x50 + sel.bit.setWidth 8 := by cases sel <;> decide

theorem encode_nins (sel : NibbleSel) : encode (.nins sel) = 0x60 + sel.bit.setWidth 8 := by cases sel <;> decide

/-- A word that selects a row is the command word of an operation of that name: one case per row, by the row's format. -/
theorem exists_instr_of_selects {c : Byte} {row : OpcodeRow} (hrow : row ∈ opcodeTable) (h : row.selects c = true) :
    ∃ i, encode i = c ∧ i.mnemonic = row.mnemonic := by
  replace h : c &&& row.mask = row.value := by simpa [OpcodeRow.selects] using h
  simp only [opcodeTable, List.cons_append, List.nil_append, List.mem_cons, List.not_mem_nil, or_false] at hrow
  obtain rfl | rfl | rfl | rfl | rfl | rfl | rfl | rfl | rfl | rfl | rfl | rfl | rfl | rfl := hrow
  · exact ⟨.d2b, eq_of_and_FF h, rfl⟩
  · exact ⟨.b2d, eq_of_and_FF h, rfl⟩
  · obtain ⟨n, hn⟩ := exists_bitIndex_of_and_F8 h
    exact ⟨.bclr n, (Machine.encode_bclr n).trans hn, rfl⟩
  · obtain ⟨n, hn⟩ := exists_bitIndex_of_and_F8 h
    exact ⟨.bset n, (Machine.encode_bset n).trans hn, rfl⟩
  · obtain ⟨sel, hsel⟩ := exists_nibbleSel_of_and_FE h
    exact ⟨.nclr sel, (encode_nclr sel).trans hsel, rfl⟩
  · obtain ⟨sel, hsel⟩ := exists_nibbleSel_of_and_FE h
    exact ⟨.nset sel, (encode_nset sel).trans hsel, rfl⟩
  · obtain ⟨sel, hsel⟩ := exists_nibbleSel_of_and_FE h
    exact ⟨.nins sel, (encode_nins sel).trans hsel, rfl⟩
  · exact ⟨.pksec, eq_of_and_FF h, rfl⟩
  · exact ⟨.upsec, eq_of_and_FF h, rfl⟩
  · exact ⟨.pkdt, eq_of_and_FF h, rfl⟩
  · exact ⟨.updt, eq_of_and_FF h, rfl⟩
  · exact ⟨.pkwave, eq_of_and_FF h, rfl⟩
  · exact ⟨.chkdt, eq_of_and_FF h, rfl⟩
  · exact ⟨.chkwave, eq_of_and_FF h, rfl⟩

/-- The table and the decoder agree on what a word selects (30_encoding.md R61). -/
theorem selects_iff_decode {c : Byte} {row : OpcodeRow} (hrow : row ∈ opcodeTable) :
    row.selects c = true ↔ ∃ i, decode c = .operation i ∧ i.mnemonic = row.mnemonic := by
  simp only [decode_eq_iff_encode_eq]
  constructor
  · exact exists_instr_of_selects hrow
  · rintro ⟨i, rfl, hname⟩
    obtain ⟨row', hrow', hname', hsel⟩ := exists_row_of_instr i
    rwa [row_eq_of_mnemonic_eq row hrow row' hrow' (hname.symm.trans hname'.symm)]

/-- A word is reserved when it selects no row: each operation has one. -/
theorem reserved_iff_selects_no_row (c : Byte) :
    (∃ why, decode c = .reserved why) ↔ ∀ row ∈ opcodeTable, row.selects c = false := by
  constructor
  · rintro ⟨why, hwhy⟩ row hrow
    rw [Bool.eq_false_iff, Ne, selects_iff_decode hrow, hwhy]
    rintro ⟨i, hi, -⟩
    cases hi
  · intro hnone
    cases h : decode c with
    | reserved why => exact ⟨why, rfl⟩
    | operation i =>
      obtain ⟨row, hrow, -, hsel⟩ := exists_row_of_instr i
      rw [encode_of_decode h, hnone row hrow] at hsel
      cases hsel

/-- Settles O4: a row selects the command words of the operations of its name; two rows that select one word name the one
operation it decodes to. -/
theorem tableRowsSelectWhatDecodes : Obligations.TableRowsSelectWhatDecodes := by
  refine ⟨fun c row hrow => selects_iff_decode hrow, reserved_iff_selects_no_row, ?_⟩
  intro c row hrow row' hrow' hsel hsel'
  obtain ⟨i, hi, hname⟩ := (selects_iff_decode hrow).1 hsel
  obtain ⟨j, hj, hname'⟩ := (selects_iff_decode hrow').1 hsel'
  obtain rfl : i = j := Decoded.operation.inj (hi.symm.trans hj)
  exact row_eq_of_mnemonic_eq row hrow row' hrow' (hname.symm.trans hname')

end Sys2Proof

namespace Sys2Proof.Machine

/-! ## One step (00_scope.md R6) -/

/-- Settles O5: the step's two branches are the decoder's two answers. -/
theorem stepRunsTheDecodedOperation : Obligations.StepRunsTheDecodedOperation := by
  have hstep {s : State} {i : Instr} (h : decode s.cmd = .operation i) : step s = exec i s := by
    rw [step_of_operation h, exec_eq]
  exact ⟨fun _ _ => hstep, fun _ i h => hstep (h ▸ decode_encode i), fun _ _ => step_of_reserved⟩

@[simp] theorem port_resultOf (i : Instr) (a : Byte) (f : Nibble) (va : VecBits) : (resultOf i a f va).port = i.writes := by
  cases i <;> rfl

/-- Settles O6: exec writes the operation's result, which stands on the port R53 names, and nothing else. -/
theorem everyOperationCompletesOnItsNamedPort : Obligations.EveryOperationCompletesOnItsNamedPort := fun i s =>
  ⟨resultOf i s.a s.f s.va, exec_eq i s, port_resultOf i s.a s.f s.va⟩

/-- The result depends on the ports R53 names for the operation, and on no other. -/
theorem resultOf_eq_of_sameOperands {i : Instr} {s t : State} (h : SameOperands i s t) :
    resultOf i s.a s.f s.va = resultOf i t.a t.f t.va := by
  obtain ⟨ha, hf, hva⟩ := h
  cases i with
  | d2b | b2d | bclr n | bset n | nclr sel | pksec | upsec | chkwave => simp only [resultOf, ha rfl]
  | nset sel | nins sel | pkwave => simp only [resultOf, ha rfl, hf rfl]
  | pkdt | updt | chkdt => simp only [resultOf, hva rfl]

/-- Settles O7: exec writes a result that is a function of the ports the operation names. -/
theorem unnamedInputPortsHaveNoEffect : Obligations.UnnamedInputPortsHaveNoEffect := fun i s t h =>
  ⟨resultOf i s.a s.f s.va, exec_eq i s, resultOf_eq_of_sameOperands h ▸ exec_eq i t⟩

/-! ## The invariant (10_state.md R18, 42_regmap_pack_unpack.md R90) -/

/-- Both encodes of the seconds put the Second through the clock-halt mask. -/
theorem clockHalt_secondByte_resultOf {i : Instr} (h : i = .pksec ∨ i = .pkdt) (a : Byte) (f : Nibble) (va : VecBits) :
    clockHalt (resultOf i a f va).secondByte = false := by
  obtain rfl | rfl := h
  · exact clockHalt_packSecond a
  · have hsecond : elem (packFields (Fields.ofPort va)).toPort 0 = packSecond (Fields.ofPort va).second := elem_toPort _ 0
    simp [resultOf, Result.secondByte, hsecond, clockHalt_packSecond]

/-- A completed transaction settles the outputs, whatever stood there before. -/
theorem inv_of_step {s t : State} (hstore : s.store.wf) (h : step s = .next t) : t.Inv := by
  obtain ⟨i, hi, hs⟩ | ⟨why, -, hs⟩ := step_cases s
  · obtain rfl : { s with out := some (resultOf i s.a s.f s.va) } = t := Host.Outcome.next.inj (hs.symm.trans h)
    refine ⟨hstore, fun r j hr hj => ?_⟩
    obtain rfl := Option.some.inj hr
    obtain rfl : i = j := Decoded.operation.inj (hi.symm.trans hj)
    exact ⟨port_resultOf .., fun hpack => clockHalt_secondByte_resultOf hpack ..⟩
  · exact nomatch hs.symm.trans h

/-- Settles O10: a step leaves the store alone and settles the outputs. -/
theorem stepKeepsInvariant : Obligations.StepKeepsInvariant := fun _ _ hinv h => inv_of_step hinv.1 h

/-- Settles O11: the empty store is canonical, and no output port is defined. -/
theorem resetMeetsInvariant : Obligations.ResetMeetsInvariant := ⟨Memory.wf_nil, fun _ _ hr => nomatch hr⟩

end Sys2Proof.Machine
end

section
/-! PROOFS. Family other, the bit-field helpers' laws (41_bitfield_helpers.md R77). -/
namespace Sys2Proof

/-- The bits a helper clears before it sets any: every helper is `(a & ~clears) | sets` (41_bitfield_helpers.md R72 to R76). -/
def Instr.clears : Instr → Byte
  | .bclr n => Machine.bitMask n
  | .nclr sel => Machine.nibMask sel
  | .nins sel => Machine.nibMask sel
  | _ => 0#8

/-- The bits a helper sets. -/
def Instr.sets (f : Nibble) : Instr → Byte
  | .bset n => Machine.bitMask n
  | .nset sel => Machine.nibPlace sel f
  | .nins sel => Machine.nibPlace sel f
  | _ => 0#8

end Sys2Proof

namespace Sys2Proof.Machine

@[simp] theorem clearBits_zero (b : Byte) : clearBits 0#8 b = b := BitVec.and_allOnes

@[simp] theorem setBits_zero (b : Byte) : setBits 0#8 b = b := BitVec.or_zero

/-- What a helper answers, from the bits it clears and the bits it sets. -/
def helperResult (i : Instr) (a : Byte) (f : Nibble) : Byte := setBits (i.sets f) (clearBits i.clears a)

theorem resultOf_helper {i : Instr} (h : i.isHelper = true) (a : Byte) (f : Nibble) (va : VecBits) :
    resultOf i a f va = .y (helperResult i a f) := by
  cases i with
  | bclr n | bset n | nclr sel | nset sel | nins sel => simp [resultOf, helperResult, Instr.sets, Instr.clears]
  | d2b | b2d | pksec | upsec | pkdt | updt | pkwave | chkdt | chkwave => cases h

theorem answersY_helper {i : Instr} (h : i.isHelper = true) (s : State) (a : Byte) (f : Nibble) :
    AnswersY s i a f (helperResult i a f) :=
  answersY_iff.2 (resultOf_helper h a f s.va)

theorem getLsbD_helperResult (i : Instr) (a : Byte) (f : Nibble) {k : Nat} (hk : k < 8) :
    (helperResult i a f).getLsbD k = (a.getLsbD k && !i.clears.getLsbD k || (i.sets f).getLsbD k) := by
  rw [helperResult, getLsbD_setBits, getLsbD_clearBits _ _ k hk]

/-! ## A helper stays inside the bits it names -/

theorem getLsbD_nibPlace_imp (sel : NibbleSel) (f : Nibble) (k : Nat) :
    (nibPlace sel f).getLsbD k = true → (nibMask sel).getLsbD k = true := by
  have hsub : nibPlace sel f &&& nibMask sel = nibPlace sel f := by revert f; cases sel <;> decide
  intro h
  rw [← hsub, BitVec.getLsbD_and, Bool.and_eq_true] at h
  exact h.2

theorem touches_of_clears {i : Instr} (h : i.isHelper = true) {k : Nat} (hk : i.clears.getLsbD k = true) :
    i.touches.getLsbD k = true := by
  cases i with
  | bclr n | nclr sel | nins sel => exact hk
  | bset n | nset sel => simp [Instr.clears] at hk
  | d2b | b2d | pksec | upsec | pkdt | updt | pkwave | chkdt | chkwave => cases h

theorem touches_of_sets {i : Instr} (h : i.isHelper = true) {f : Nibble} {k : Nat} (hk : (i.sets f).getLsbD k = true) :
    i.touches.getLsbD k = true := by
  cases i with
  | bset n => exact hk
  | nset sel | nins sel => exact getLsbD_nibPlace_imp sel f k hk
  | bclr n | nclr sel => simp [Instr.sets] at hk
  | d2b | b2d | pksec | upsec | pkdt | updt | pkwave | chkdt | chkwave => cases h

/-- A bit the helper does not name is the operand's (41_bitfield_helpers.md R77, item 1). -/
theorem getLsbD_helperResult_of_not_touched {i : Instr} (h : i.isHelper = true) (a : Byte) (f : Nibble) {k : Nat} (hk : k < 8)
    (hout : i.touches.getLsbD k = false) : (helperResult i a f).getLsbD k = a.getLsbD k := by
  have hclears : i.clears.getLsbD k = false := Bool.eq_false_iff.2 fun hc => by simp [touches_of_clears h hc] at hout
  have hsets : (i.sets f).getLsbD k = false := Bool.eq_false_iff.2 fun hc => by simp [touches_of_sets h hc] at hout
  simp [getLsbD_helperResult i a f hk, hclears, hsets]

theorem helperResult_local {i : Instr} (h : i.isHelper = true) (a : Byte) (f : Nibble) :
    helperResult i a f &&& ~~~i.touches = a &&& ~~~i.touches := by
  apply BitVec.eq_of_getLsbD_eq
  intro k hk
  cases hout : i.touches.getLsbD k with
  | true => simp [hout]
  | false => simp [getLsbD_helperResult_of_not_touched h a f hk hout]

/-- Clearing and setting the same bits again changes nothing (41_bitfield_helpers.md R77, item 2). -/
theorem helperResult_idempotent (i : Instr) (a : Byte) (f : Nibble) :
    helperResult i (helperResult i a f) f = helperResult i a f := by
  apply BitVec.eq_of_getLsbD_eq
  intro k hk
  simp only [getLsbD_helperResult _ _ _ hk]
  cases a.getLsbD k <;> cases i.clears.getLsbD k <;> simp

/-- On one bit the last helper wins (41_bitfield_helpers.md R77, item 3). -/
theorem setBits_clearBits_same (m b : Byte) : setBits m (clearBits m b) = setBits m b := by
  apply BitVec.eq_of_getLsbD_eq
  intro k hk
  simp only [getLsbD_setBits, getLsbD_clearBits _ _ k hk]
  cases m.getLsbD k <;> simp

theorem clearBits_setBits_same (m b : Byte) : clearBits m (setBits m b) = clearBits m b := by
  apply BitVec.eq_of_getLsbD_eq
  intro k hk
  simp only [getLsbD_setBits, getLsbD_clearBits _ _ k hk]
  cases m.getLsbD k <;> simp

/-- Settles O19: a helper changes bits under its mask only, and clears and sets the same bits each time. -/
theorem bitFieldHelpersAreLocalAndIdempotent : Obligations.BitFieldHelpersAreLocalAndIdempotent := by
  intro s i a f h
  refine ⟨⟨helperResult i a f, answersY_helper h s a f, ?again, helperResult_local h a f⟩, fun n => ?lastWins⟩
  case again =>
    have hagain := answersY_helper h s (helperResult i a f) f
    rwa [helperResult_idempotent] at hagain
  case lastWins =>
    exact ⟨clearBits (bitMask n) a, setBits (bitMask n) a, answersY_iff.2 rfl,
      answersY_iff.2 (congrArg Result.y (setBits_clearBits_same _ _)), answersY_iff.2 rfl,
      answersY_iff.2 (congrArg Result.y (clearBits_setBits_same _ _))⟩

/-! ## Composition (41_bitfield_helpers.md R77, items 4, 7 and 8) -/

theorem setBits_setBits (m n b : Byte) : setBits n (setBits m b) = setBits (m ||| n) b := BitVec.or_assoc b m n

theorem clearBits_clearBits (m n b : Byte) : clearBits n (clearBits m b) = clearBits (m ||| n) b := by
  rw [clearBits, clearBits, clearBits, BitVec.and_assoc, ← BitVec.not_or]

/-- A Byte is its two nibbles, whichever is named first. -/
theorem eq_of_selNibble {b c : Byte} (sel : NibbleSel) (hsel : selNibble sel b = selNibble sel c)
    (hother : selNibble sel.other b = selNibble sel.other c) : b = c := by
  cases sel with
  | lo => rw [← ofNibbles_nibbles b, ← ofNibbles_nibbles c]; exact congrArg₂ ofNibbles hother hsel
  | hi => rw [← ofNibbles_nibbles b, ← ofNibbles_nibbles c]; exact congrArg₂ ofNibbles hsel hother

theorem nibPlace_or (sel : NibbleSel) (f g : Nibble) : nibPlace sel f ||| nibPlace sel g = nibPlace sel (f ||| g) := by
  change setBits (nibPlace sel g) (nibPlace sel f) = _
  apply eq_of_selNibble sel <;> simp

/-- NINS replaces the nibble, whatever an earlier NINS put there. -/
theorem nins_nins (sel : NibbleSel) (a : Byte) (f g : Nibble) :
    setBits (nibPlace sel g) (clearBits (nibMask sel) (setBits (nibPlace sel f) (clearBits (nibMask sel) a))) =
      setBits (nibPlace sel g) (clearBits (nibMask sel) a) := by
  apply eq_of_selNibble sel <;> simp

/-- Settles O20: NINS is NSET after NCLR as they stand; two placed values OR nibble by nibble; the second NINS clears what
the first one placed. -/
theorem nibbleHelpersCompose : Obligations.NibbleHelpersCompose := by
  intro s sel a f g
  refine ⟨?insIsSetAfterClear, ?setAccumulates, ?insOverwrites⟩
  case insIsSetAfterClear => exact ⟨_, _, answersY_iff.2 rfl, answersY_iff.2 rfl, answersY_iff.2 rfl⟩
  case setAccumulates =>
    refine ⟨_, _, answersY_iff.2 rfl, answersY_iff.2 rfl, answersY_iff.2 (congrArg Result.y ?_)⟩
    rw [setBits_setBits, nibPlace_or]
  case insOverwrites =>
    exact ⟨_, _, answersY_iff.2 rfl, answersY_iff.2 rfl, answersY_iff.2 (congrArg Result.y (nins_nins sel a f g).symm)⟩

/-- Settles O22: four single-bit masks make the mask of the nibble, and the placed value 0xF. -/
theorem nibbleHelpersAreFourBitHelpers : Obligations.NibbleHelpersAreFourBitHelpers := by
  intro s a f
  refine ⟨?clearLow, ?setLow, ?setHigh⟩
  case clearLow =>
    refine ⟨_, _, _, _, answersY_iff.2 rfl, answersY_iff.2 rfl, answersY_iff.2 rfl, answersY_iff.2 rfl,
      answersY_iff.2 (congrArg Result.y ?_)⟩
    simp only [clearBits_clearBits]
    rfl
  case setLow =>
    refine ⟨_, _, _, _, answersY_iff.2 rfl, answersY_iff.2 rfl, answersY_iff.2 rfl, answersY_iff.2 rfl,
      answersY_iff.2 (congrArg Result.y ?_)⟩
    simp only [setBits_setBits]
    rfl
  case setHigh =>
    refine ⟨_, _, _, _, answersY_iff.2 rfl, answersY_iff.2 rfl, answersY_iff.2 rfl, answersY_iff.2 rfl,
      answersY_iff.2 (congrArg Result.y ?_)⟩
    simp only [setBits_setBits]
    rfl

/-! ## Commutation (41_bitfield_helpers.md R77, item 6) -/

theorem helperResult_comm_of_disjoint {i j : Instr} (hi : i.isHelper = true) (hj : j.isHelper = true)
    (hdisjoint : i.touches &&& j.touches = 0) (a : Byte) (f g : Nibble) :
    helperResult i (helperResult j a g) f = helperResult j (helperResult i a f) g := by
  apply BitVec.eq_of_getLsbD_eq
  intro k hk
  have hbit : (i.touches.getLsbD k && j.touches.getLsbD k) = false := by
    rw [← BitVec.getLsbD_and, hdisjoint]
    exact BitVec.getLsbD_zero
  obtain hout | hout := Bool.and_eq_false_iff.1 hbit
  · simp only [getLsbD_helperResult_of_not_touched hi _ _ hk hout, getLsbD_helperResult j _ _ hk]
  · simp only [getLsbD_helperResult_of_not_touched hj _ _ hk hout, getLsbD_helperResult i _ _ hk]

theorem clears_of_isOr {i : Instr} (h : i.isOr) : i.clears = 0#8 := by
  obtain ⟨n, rfl⟩ | ⟨sel, rfl⟩ := h <;> rfl

theorem sets_of_isAnd {i : Instr} (h : i.isAnd) (f : Nibble) : i.sets f = 0#8 := by
  obtain ⟨n, rfl⟩ | ⟨sel, rfl⟩ := h <;> rfl

theorem helperResult_comm_of_isOr {i j : Instr} (hi : i.isOr) (hj : j.isOr) (a : Byte) (f g : Nibble) :
    helperResult i (helperResult j a g) f = helperResult j (helperResult i a f) g := by
  simp only [helperResult, clears_of_isOr hi, clears_of_isOr hj, clearBits_zero, setBits_setBits]
  rw [BitVec.or_comm]

theorem helperResult_comm_of_isAnd {i j : Instr} (hi : i.isAnd) (hj : j.isAnd) (a : Byte) (f g : Nibble) :
    helperResult i (helperResult j a g) f = helperResult j (helperResult i a f) g := by
  simp only [helperResult, sets_of_isAnd hi, sets_of_isAnd hj, setBits_zero, clearBits_clearBits]
  rw [BitVec.or_comm]

/-- Settles O21: on disjoint bits each helper leaves what the other one sees; ORs and ANDs commute as such. -/
theorem bitFieldHelpersCommute : Obligations.BitFieldHelpersCommute := by
  intro s i j a f g hi hj h
  have hcomm : helperResult i (helperResult j a g) f = helperResult j (helperResult i a f) g := by
    obtain hdisjoint | ⟨hi', hj'⟩ | ⟨hi', hj'⟩ := h
    · exact helperResult_comm_of_disjoint hi hj hdisjoint a f g
    · exact helperResult_comm_of_isOr hi' hj' a f g
    · exact helperResult_comm_of_isAnd hi' hj' a f g
  exact ⟨_, _, _, answersY_helper hi s a f, answersY_helper hj s _ g, answersY_helper hj s a g,
    hcomm ▸ answersY_helper hi s _ f⟩

end Sys2Proof.Machine
end

section
/-! PROOFS. Family other, the range checks as transactions (42_regmap_pack_unpack.md R87, R88) and the assembly lines
(30_encoding.md R59, R60). -/
namespace Sys2Proof.Machine

/-! ## The verdicts, as the transactions that give them -/

theorem step_chkdt_iff {s : State} {x : Fields} {v : Bool} :
    step (s.presentVector .chkdt x) = .next ((s.presentVector .chkdt x).setOk v) ↔ validDateTime x = v := by
  rw [step_of_operation (s := s.presentVector .chkdt x) (decode_encode .chkdt)]
  simp [resultOf, State.setOk]

theorem step_chkwave_iff {s : State} {m : Byte} {f : Nibble} {v : Bool} :
    step (s.presentScalar .chkwave m f) = .next ((s.presentScalar .chkwave m f).setOk v) ↔ validWave m = v := by
  rw [step_of_operation (s := s.presentScalar .chkwave m f) (decode_encode .chkwave)]
  simp [resultOf, State.setOk]

/-- The clock-halt mask takes nothing from a Second that passed its check. -/
theorem packSecond_eq_d2b_of_validDateTime {x : Fields} (h : validDateTime x = true) : packSecond x.second = d2b x.second := by
  obtain ⟨hsecond, -⟩ := (validDateTime_iff x).1 h
  exact packSecond_eq_d2b (inDomD2b_of_validDateTime h 0) (Nat.mod_eq_of_lt (by omega)).symm

theorem get_packFields_of_validDateTime {x : Fields} (h : validDateTime x = true) (i : Fin 7) :
    (packFields x).get i = d2b (x.get i) := by
  by_cases hi : i = 0
  · subst hi
    exact packSecond_eq_d2b_of_validDateTime h
  · exact get_packFields_of_ne_zero x hi

/-- Settles O34: a checked DateTime lies in the domain of D2B, whose answers there are digits. -/
theorem checkedDateTimeEncodesToDigits : Obligations.CheckedDateTimeEncodesToDigits := by
  intro s t x hok
  have hvalid := step_chkdt_iff.1 hok
  refine ⟨packFields x, answersVy_pkdt_iff.2 rfl, fun i => ?_⟩
  have hdom := inDomD2b_of_validDateTime hvalid i
  rw [get_packFields_of_validDateTime hvalid]
  exact ⟨hdom, inDomB2d_d2b hdom⟩

/-! ## Assembly lines (30_encoding.md R59, R60) -/

theorem presentLine_of_wf {s : State} {l : AsmLine} {i : Instr} (hwf : l.wf = true) (hi : l.op.expand = some i) :
    s.presentLine l = some (s.presentOperands i l) := by
  simp [State.presentLine, hwf, hi]

theorem presentLine_of_not_wf {s : State} {l : AsmLine} (hwf : l.wf = false) : s.presentLine l = none := by
  simp [State.presentLine, hwf]

theorem AsmLine.wf_iff {l : AsmLine} :
    l.wf = true ↔ ∃ i, l.op.expand = some i ∧ scalarOperandOk i.readsA 8 l.a = true ∧
      scalarOperandOk i.readsF 4 l.f = true ∧ vectorOperandOk i.readsVa l.va = true := by
  unfold AsmLine.wf
  cases l.op.expand with
  | none => simp
  | some i => simp [and_assoc]

/-- A checked scalar operand fits the port it is put on. -/
theorem toNat_portValue {w v : Nat} {reads : Bool} {old : BitVec w} (h : scalarOperandOk reads w (some v) = true) :
    (portValue w (some v) old).toNat = v := by
  simp only [scalarOperandOk, Bool.and_eq_true, decide_eq_true_eq] at h
  exact Nat.mod_eq_of_lt h.2

/-- A checked vector operand is seven Bytes, and the port holds them in index order. -/
theorem toNat_elem_vectorPortValue {xs : List Nat} {reads : Bool} {old : VecBits} (h : vectorOperandOk reads (some xs) = true)
    (k : Fin 7) : xs[k.val]? = some (elem (vectorPortValue (some xs) old) k).toNat := by
  simp only [vectorOperandOk, Bool.and_eq_true, decide_eq_true_eq, List.all_eq_true] at h
  obtain ⟨⟨-, hlength⟩, hbytes⟩ := h
  match xs, hlength with
  | [x0, x1, x2, x3, x4, x5, x6], _ =>
    simp only [List.mem_cons, List.not_mem_nil, or_false, forall_eq_or_imp, forall_eq] at hbytes
    obtain ⟨h0, h1, h2, h3, h4, h5, h6⟩ := hbytes
    simp only [vectorPortValue, List.map_cons, List.map_nil, Fields.ofList, elem_toPort]
    fin_cases k <;> simp [Fields.get, Nat.mod_eq_of_lt, *]

/-- Settles O35: a well-formed line's operands fit the ports they are put on, and its command word is its operation's. -/
theorem assemblyLinePresentsItsTransaction : Obligations.AssemblyLinePresentsItsTransaction := by
  refine fun s l => ⟨fun hwf => ?wellFormed, presentLine_of_not_wf⟩
  obtain ⟨i, hi, ha, hf, hva⟩ := AsmLine.wf_iff.1 hwf
  refine ⟨i, s.presentOperands i l, hi, presentLine_of_wf hwf hi, decode_encode i, fun v hv => ?a, fun v hv => ?f,
    fun xs hxs k hk => ?va⟩
  case a =>
    rw [hv] at ha
    simpa only [State.presentOperands, hv] using toNat_portValue ha
  case f =>
    rw [hv] at hf
    simpa only [State.presentOperands, hv] using toNat_portValue hf
  case va =>
    rw [hxs] at hva
    simpa only [State.presentOperands, hxs] using toNat_elem_vectorPortValue hva ⟨k, hk⟩

/-- A line that writes `a` alone, for an operation that reads `a` alone. -/
theorem presentLine_a {s : State} {op : AsmOp} {r : Nat} (i : Instr) (hi : op.expand = some i) (hr : r < 256)
    (ha : i.readsA = true) (hf : i.readsF = false) (hva : i.readsVa = false) :
    s.presentLine { op := op, a := some r } = some { s with cmd := encode i, a := BitVec.ofNat 8 r } :=
  presentLine_of_wf (AsmLine.wf_iff.2 ⟨i, hi, by simp [scalarOperandOk, ha, hr], by simp [scalarOperandOk, hf],
    by simp [vectorOperandOk, hva]⟩) hi

/-- A line that writes `a` and `f`, for an operation that reads these two. -/
theorem presentLine_a_f {s : State} {op : AsmOp} {r m : Nat} (i : Instr) (hi : op.expand = some i) (hr : r < 256) (hm : m < 16)
    (ha : i.readsA = true) (hf : i.readsF = true) (hva : i.readsVa = false) :
    s.presentLine { op := op, a := some r, f := some m } =
      some { s with cmd := encode i, a := BitVec.ofNat 8 r, f := BitVec.ofNat 4 m } :=
  presentLine_of_wf (AsmLine.wf_iff.2 ⟨i, hi, by simp [scalarOperandOk, ha, hr], by simp [scalarOperandOk, hf, hm],
    by simp [vectorOperandOk, hva]⟩) hi

/-- Settles O36: a pseudo-operation stands for the operation it abbreviates, so both lines put the same word and operands on
the ports. -/
theorem pseudoOperationsAbbreviate : Obligations.PseudoOperationsAbbreviate := by
  constructor
  · intro s r hr
    exact ⟨presentLine_a (.bclr 7) rfl hr rfl rfl rfl, presentLine_a (.bclr 7) rfl hr rfl rfl rfl,
      presentLine_a (.bset 7) rfl hr rfl rfl rfl, presentLine_a (.bset 7) rfl hr rfl rfl rfl,
      presentLine_a (.nclr .lo) rfl hr rfl rfl rfl, presentLine_a (.nclr .lo) rfl hr rfl rfl rfl⟩
  · intro s r m hr hm
    exact ⟨presentLine_a_f (.nset .lo) rfl hr hm rfl rfl rfl, presentLine_a_f (.nset .lo) rfl hr hm rfl rfl rfl⟩

end Sys2Proof.Machine
end

section
/-! PROOFS. Family other, the environment's bus (60_exceptions.md R107, R111): a send and a receive are one transport call and
then what the peripheral does; Init, DeInit, and the accesses without a meaning. -/
namespace Sys2Proof.Machine

/-! ## The transport's side of a state -/

/-- `s` with the calls issued so far and the answers to come replaced: nothing but the transport tells the two apart. -/
def State.withTransport (s : State) (calls : List BusCall) (answers : List Answer) : State :=
  { s with calls := calls, answers := answers }

@[simp] theorem State.withTransport_calls (s : State) (cs : List BusCall) (xs : List Answer) :
    (s.withTransport cs xs).calls = cs := rfl

@[simp] theorem State.withTransport_answers (s : State) (cs : List BusCall) (xs : List Answer) :
    (s.withTransport cs xs).answers = xs := rfl

@[simp] theorem State.withTransport_store (s : State) (cs : List BusCall) (xs : List Answer) :
    (s.withTransport cs xs).store = s.store := rfl

/-! ## One transport call -/

theorem callHook_of_success {c : BusCall} {s : State} {rest : List Answer} (h : s.answers = .success :: rest) :
    callHook c s = .done () (s.withTransport (s.calls ++ [c]) rest) := by
  rw [callHook, exchange_of_cons h]
  rfl

theorem callHook_of_failure {c : BusCall} {s : State} {kind : Nat} {rest : List Answer}
    (h : s.answers = .failure kind :: rest) :
    callHook c s = .failed .transportFailure (s.withTransport (s.calls ++ [c]) rest) := by
  rw [callHook, exchange_of_cons h]
  rfl

/-- Whatever the transport answers, listed or not, a call is recorded and succeeds or fails, and nothing else changes. -/
theorem callHook_cases (c : BusCall) (s : State) :
    ∃ rest,
      (callHook c s = .done () (s.withTransport (s.calls ++ [c]) rest) ∧ ∀ kind xs, s.answers ≠ .failure kind :: xs) ∨
      (callHook c s = .failed .transportFailure (s.withTransport (s.calls ++ [c]) rest) ∧
        ∀ xs, s.answers ≠ .success :: xs) := by
  obtain ⟨x, rest, hexchange, hanswer⟩ := exchange_cases c s
  refine ⟨rest, ?_⟩
  rw [callHook, hexchange]
  cases x with
  | success =>
    refine .inl ⟨rfl, fun kind xs hxs => ?_⟩
    obtain h | ⟨h, -, -⟩ := hanswer <;> cases hxs.symm.trans h
  | failure kind =>
    refine .inr ⟨rfl, fun xs hxs => ?_⟩
    obtain h | ⟨h, -, -⟩ := hanswer <;> cases hxs.symm.trans h

/-! ## The peripheral's side of an exchange -/

/-- What a send that went through does at the peripheral: set the register pointer, or write data (60_exceptions.md R107). -/
def deliver (p : Params) (bytes : List Byte) (t : State) : Reply Unit :=
  match bytes with
  | [] => .refused .sendWithoutRegister
  | [r] => .done () { t with pointer := r.toNat }
  | r :: b :: bs => peripheralWrite p r.toNat (b :: bs) t

/-- What a receive that went through reads at the peripheral (60_exceptions.md R107). -/
def fetch (n : Nat) (t : State) : Reply (List Byte) :=
  if mapSize < t.pointer + n then .refused .pastEndOfMap
  else .done (t.store.readBytes t.pointer n) { t with pointer := t.pointer + n }

theorem send_eq (p : Params) (bytes : List Byte) (s : State) :
    send p bytes s = (callHook (.send (slaveAddress false) bytes) s).andThen fun _ t => deliver p bytes t := by
  rw [send, callHook]
  obtain ⟨x, t⟩ := exchange (.send (slaveAddress false) bytes) s
  cases x <;> rfl

theorem receive_eq (n : Nat) (s : State) :
    receive n s = (callHook (.receive (slaveAddress true) n) s).andThen fun _ t => fetch n t := by
  rw [receive, callHook]
  obtain ⟨x, t⟩ := exchange (.receive (slaveAddress true) n) s
  cases x <;> rfl

theorem deliver_pointer (p : Params) (r : Byte) (t : State) : deliver p [r] t = .done () { t with pointer := r.toNat } := rfl

theorem deliver_data (p : Params) (r : Byte) {data : List Byte} (h : data ≠ []) (t : State) :
    deliver p (r :: data) t = peripheralWrite p r.toNat data t := by
  obtain ⟨b, bs, rfl⟩ := List.exists_cons_of_ne_nil h
  rfl

theorem peripheralWrite_of_pastEnd {p : Params} {r : Nat} {data : List Byte} {s : State} (h : mapSize < r + data.length) :
    peripheralWrite p r data s = .refused .pastEndOfMap := if_pos h

theorem peripheralWrite_of_protected {p : Params} {r : Nat} {data : List Byte} {s : State} (hr : r + data.length ≤ mapSize)
    (hu : ¬ s.unprotected p) (hst1 : ¬ (r = p.addrSt1 ∧ data.length = 1)) :
    peripheralWrite p r data s = .refused .outsideBracket := by
  rw [peripheralWrite, if_neg (Nat.not_lt.2 hr), if_neg (not_or.2 ⟨hu, hst1⟩)]

/-! ## Init, DeInit and the lifecycle (60_exceptions.md R102, R103) -/

/-- Settles O37: the bindings are looked at first, then the hook is called if there is one. -/
theorem initValidatesBindings : Obligations.InitValidatesBindings := by
  refine fun s => ⟨fun hunbound => ?unbound, fun hsend hreceive => ⟨fun hhook => ?noHook, fun rest hhook hanswers => ?succeeds,
    fun kind rest hhook hanswers => ?fails⟩⟩
  case unbound =>
    obtain h | h := hunbound <;> simp [engineInit, h]
  case noHook => simp [engineInit, hsend, hreceive, hhook]
  case succeeds =>
    simp only [engineInit, hsend, hreceive, hhook, Bool.and_self, if_true]
    rw [callHook_of_success (s := { s with ready := false }) hanswers]
    rfl
  case fails =>
    simp only [engineInit, hsend, hreceive, hhook, Bool.and_self, if_true]
    rw [callHook_of_failure (s := { s with ready := false }) hanswers]
    rfl

/-- Settles O38: without a hook there is nothing to call, with one its answer decides. -/
theorem deInitRunsItsHook : Obligations.DeInitRunsItsHook := by
  refine fun s => ⟨fun hhook => ?noHook, fun rest hhook hanswers => ?succeeds, fun kind rest hhook hanswers => ?fails⟩
  case noHook => simp [engineDeInit, hhook]
  case succeeds =>
    rw [engineDeInit, if_pos hhook]
    exact callHook_of_success (s := { s with ready := false }) hanswers
  case fails =>
    rw [engineDeInit, if_pos hhook]
    exact callHook_of_failure (s := { s with ready := false }) hanswers

theorem setDateTime_of_not_ready {s : State} (h : s.ready = false) (p : Params) (x : Fields) :
    setDateTime p x s = .refused .outsideLifecycle := by simp [setDateTime, h]

theorem getDateTime_of_not_ready {s : State} (h : s.ready = false) (p : Params) :
    getDateTime p s = .refused .outsideLifecycle := by simp [getDateTime, h]

theorem setOutputWave_of_not_ready {s : State} (h : s.ready = false) (p : Params) (m : Byte) :
    setOutputWave p m s = .refused .outsideLifecycle := by simp [setOutputWave, h]

/-- Settles O54: the flag is looked at before anything else; the map and the bracket are looked at once a call has gone
through. -/
theorem accessesWithoutMeaningAreRefused : Obligations.AccessesWithoutMeaningAreRefused := by
  refine ⟨fun p x m s h => ⟨setDateTime_of_not_ready h p x, getDateTime_of_not_ready h p, setOutputWave_of_not_ready h p m⟩,
    fun n s hanswers hpast => ?read,
    fun p r data s hanswers hdata => ⟨fun hpast => ?writePastEnd, fun hr hu hst1 => ?writeProtected⟩⟩
  all_goals obtain ⟨rest, hrest⟩ := hanswers
  case read =>
    rw [receive_eq, callHook_of_success hrest]
    exact if_pos hpast
  case writePastEnd =>
    rw [send_eq, callHook_of_success hrest, Reply.andThen_done, deliver_data p r hdata, peripheralWrite_of_pastEnd hpast]
  case writeProtected =>
    rw [send_eq, callHook_of_success hrest, Reply.andThen_done, deliver_data p r hdata]
    exact peripheralWrite_of_protected hr hu hst1

end Sys2Proof.Machine
end

section
/-! PROOFS. Family other, the chunks of a burst write and the runs they write (60_exceptions.md R110). -/
namespace Sys2Proof.Machine

/-! ## Cutting data into chunks -/

theorem getElem?_chunks {d : Nat} (hd : 0 < d) {fuel : Nat} {data : List Byte} (hfuel : data.length ≤ fuel) (j : Nat) :
    (chunks d fuel data)[j]? = if j * d < data.length then some ((data.drop (j * d)).take d) else none := by
  induction fuel generalizing data j with
  | zero =>
    obtain rfl := List.eq_nil_of_length_eq_zero (Nat.le_zero.1 hfuel)
    simp [chunks]
  | succ fuel ih =>
    cases data with
    | nil => simp [chunks]
    | cons b bs =>
      cases j with
      | zero => simp [chunks]
      | succ j =>
        have hrest : ((b :: bs).drop d).length ≤ fuel := by
          simp only [List.length_drop, List.length_cons] at hfuel ⊢
          omega
        have hshift : j * d < ((b :: bs).drop d).length ↔ (j + 1) * d < (b :: bs).length := by
          rw [List.length_drop, Nat.succ_mul]
          omega
        rw [chunks, List.getElem?_cons_succ, ih hrest]
        simp only [hshift, List.drop_drop, Nat.succ_mul, Nat.add_comm d]

theorem lt_length_chunks_iff {d : Nat} (hd : 0 < d) {fuel : Nat} {data : List Byte} (hfuel : data.length ≤ fuel) (j : Nat) :
    j < (chunks d fuel data).length ↔ j * d < data.length := by
  rw [← not_iff_not, Nat.not_lt, ← List.getElem?_eq_none_iff, getElem?_chunks hd hfuel]
  simp

/-- The number of chunks is the length over the chunk size, rounded up. -/
theorem length_chunks {d : Nat} (hd : 0 < d) {fuel : Nat} {data : List Byte} (hfuel : data.length ≤ fuel) :
    (chunks d fuel data).length = (data.length + d - 1) / d := by
  refine eq_of_forall_lt_iff fun j => ?_
  rw [lt_length_chunks_iff hd hfuel, Nat.lt_div_iff_mul_lt hd]
  omega

theorem length_chunks_le {d : Nat} (hd : 0 < d) {fuel : Nat} {data : List Byte} (hfuel : data.length ≤ fuel) :
    (chunks d fuel data).length ≤ data.length := by
  by_contra h
  have hlast := (lt_length_chunks_iff hd hfuel _).1 (Nat.not_le.1 h)
  exact absurd hlast (Nat.not_lt.2 (Nat.le_mul_of_pos_right _ hd))

/-- The first `k` chunks hold the first `k * d` Bytes. -/
theorem flatten_take_chunks {d : Nat} {fuel : Nat} {data : List Byte} (hd : 0 < d) (hfuel : data.length ≤ fuel) (k : Nat) :
    ((chunks d fuel data).take k).flatten = data.take (k * d) := by
  induction fuel generalizing data k with
  | zero =>
    obtain rfl := List.eq_nil_of_length_eq_zero (Nat.le_zero.1 hfuel)
    simp [chunks]
  | succ fuel ih =>
    cases data with
    | nil => simp [chunks]
    | cons b bs =>
      cases k with
      | zero => simp
      | succ k =>
        have hrest : ((b :: bs).drop d).length ≤ fuel := by
          simp only [List.length_drop, List.length_cons] at hfuel ⊢
          omega
        rw [chunks, List.take_succ_cons, List.flatten_cons, ih hrest, Nat.succ_mul, Nat.add_comm, List.take_add]

theorem flatten_chunks {d : Nat} {fuel : Nat} {data : List Byte} (hd : 0 < d) (hfuel : data.length ≤ fuel) :
    (chunks d fuel data).flatten = data := by
  have h := flatten_take_chunks hd hfuel data.length
  rwa [List.take_of_length_le (length_chunks_le hd hfuel),
    List.take_of_length_le (Nat.le_mul_of_pos_right _ hd)] at h

theorem ne_nil_of_mem_chunks {d : Nat} (hd : 0 < d) {fuel : Nat} {data c : List Byte} (hfuel : data.length ≤ fuel)
    (hc : c ∈ chunks d fuel data) : c ≠ [] := by
  obtain ⟨j, hj⟩ := List.mem_iff_getElem?.1 hc
  rw [getElem?_chunks hd hfuel] at hj
  split at hj
  · obtain rfl := Option.some.inj hj
    rw [← List.length_pos_iff_ne_nil, List.length_take, List.length_drop]
    omega
  · cases hj

/-! ## The calls that send chunks -/

/-- The send of data Bytes from register `r`. -/
def writeCall (r : Nat) (data : List Byte) : BusCall := .send (slaveAddress false) (regByte r :: data)

/-- The sends of chunks, the first at register `r`, each further one where the one before ended. -/
def chunkCalls (r : Nat) : List (List Byte) → List BusCall
  | [] => []
  | c :: cs => writeCall r c :: chunkCalls (r + c.length) cs

@[simp] theorem length_chunkCalls (r : Nat) (cs : List (List Byte)) : (chunkCalls r cs).length = cs.length := by
  induction cs generalizing r with
  | nil => rfl
  | cons c cs ih => simp [chunkCalls, ih]

/-- Every chunk but the last is full, so chunk `j` starts at register `r + j * d`. -/
theorem chunkCalls_chunks {d : Nat} {fuel : Nat} {data : List Byte} (r : Nat) :
    chunkCalls r (chunks d fuel data) = (chunks d fuel data).mapIdx fun j c => writeCall (r + j * d) c := by
  induction fuel generalizing data r with
  | zero => rfl
  | succ fuel ih =>
    cases data with
    | nil => rfl
    | cons b bs =>
      rw [chunks, chunkCalls, List.mapIdx_cons]
      refine congrArg₂ List.cons (by simp) ?_
      by_cases hfull : d ≤ (b :: bs).length
      · rw [List.length_take_of_le hfull, ih]
        simp only [Nat.succ_mul, Nat.add_assoc, Nat.add_comm d]
      · rw [List.drop_of_length_le (Nat.le_of_not_le hfull)]
        cases fuel <;> rfl

/-! ## Runs of register writes -/

namespace Memory

theorem writeBytes_append (m : Memory) (r : Nat) (bs cs : List Byte) :
    m.writeBytes r (bs ++ cs) = (m.writeBytes r bs).writeBytes (r + bs.length) cs := by
  induction bs generalizing m r with
  | nil => rfl
  | cons b bs ih => simp only [List.cons_append, writeBytes, ih, List.length_cons, Nat.add_assoc, Nat.add_comm 1]

theorem read_writeBytes_of_outside {r r' : Nat} {bs : List Byte} (m : Memory) (h : r' < r ∨ r + bs.length ≤ r') :
    (m.writeBytes r bs).read r' = m.read r' := by
  rw [read_writeBytes]
  split
  · rw [List.getElem?_eq_none (by omega), Option.getD_none]
  · rfl

theorem read_writeBytes_at {i : Nat} {bs : List Byte} (m : Memory) (r : Nat) (h : i < bs.length) :
    bs[i]? = some ((m.writeBytes r bs).read (r + i)) := by
  rw [read_writeBytes, if_pos (Nat.le_add_right r i), Nat.add_sub_cancel_left, List.getElem?_eq_getElem h, Option.getD_some]

end Memory

end Sys2Proof.Machine
end

section
/-! PROOFS. Family other, the environment's operations under given answers of the transport: what they do when every call
succeeds, and where they stop when one fails (60_exceptions.md R104 to R110, R114 to R117). -/
namespace Sys2Proof.Machine

/-! ## Runs of the engine, up to the transport -/

/-- From `s`, with success answered to each, `m` issues exactly the calls `cs` and returns `v` in `t`; the calls and answers
fields of `s` and `t` themselves are not looked at. -/
def Completes {α : Type} (m : State → Reply α) (s : State) (cs : List BusCall) (v : α) (t : State) : Prop :=
  ∀ past rest, m (s.withTransport past (List.replicate cs.length .success ++ rest)) =
    .done v (t.withTransport (past ++ cs) rest)

/-- From `s`, the first of the `n` calls of `m` that fails ends it with TransportFailure, and no call follows. -/
def StopsAtFailure {α : Type} (m : State → Reply α) (s : State) (n : Nat) : Prop :=
  ∀ past k kind rest, k < n →
    ∃ u, m (s.withTransport past (List.replicate k .success ++ .failure kind :: rest)) = .failed .transportFailure u ∧
      u.calls.length = past.length + k + 1

section
variable {α β : Type} {m : State → Reply α} {k : α → State → Reply β} {s t u : State} {cs cs' : List BusCall}
  {v : α} {w : β}

/-- One run after another issues the calls of both. -/
theorem Completes.andThen (hm : Completes m s cs v t) (hk : Completes (k v) t cs' w u) :
    Completes (fun s => (m s).andThen k) s (cs ++ cs') w u := by
  intro past rest
  rw [List.length_append, List.replicate_add, List.append_assoc]
  change (m _).andThen k = _
  rw [hm, Reply.andThen_done, hk, List.append_assoc]

/-- A failing call of the first run ends both, one of the second run comes after all calls of the first. -/
theorem StopsAtFailure.andThen {n : Nat} (hc : Completes m s cs v t) (hm : StopsAtFailure m s cs.length)
    (hk : StopsAtFailure (k v) t n) : StopsAtFailure (fun s => (m s).andThen k) s (cs.length + n) := by
  intro past i kind rest hi
  by_cases hfirst : i < cs.length
  · obtain ⟨u, hu, hcalls⟩ := hm past i kind rest hfirst
    exact ⟨u, by simp only [hu, Reply.andThen_failed], hcalls⟩
  · obtain ⟨j, rfl⟩ := Nat.exists_eq_add_of_le (Nat.not_lt.1 hfirst)
    obtain ⟨u, hu, hcalls⟩ := hk (past ++ cs) j kind rest (by omega)
    refine ⟨u, ?_, by rw [hcalls, List.length_append]; omega⟩
    rw [List.replicate_add, List.append_assoc]
    change (m _).andThen k = _
    rw [hc, Reply.andThen_done, hu]

/-- The run from a state as it stands, with the answers that are left over. -/
theorem Completes.run {n : Nat} (h : Completes m s cs v t) (hs : s.TransportSucceeds n) (hn : cs.length ≤ n) :
    ∃ rest, m s = .done v (t.withTransport (s.calls ++ cs) (List.replicate (n - cs.length) .success ++ rest)) := by
  obtain ⟨rest, hrest⟩ := hs
  have hsplit : s.answers = List.replicate cs.length .success ++ (List.replicate (n - cs.length) .success ++ rest) := by
    rw [hrest, ← List.append_assoc, ← List.replicate_add, Nat.add_sub_cancel' hn]
  exact ⟨rest, by rw [← h s.calls, ← hsplit]; rfl⟩

theorem StopsAtFailure.run {n i : Nat} (h : StopsAtFailure m s n) (hi : i < n) (hs : s.TransportFailsAfter i) :
    ∃ u, m s = .failed .transportFailure u ∧ u.calls.length = s.calls.length + i + 1 := by
  obtain ⟨kind, rest, hrest⟩ := hs
  obtain ⟨u, hu, hcalls⟩ := h s.calls i kind rest hi
  exact ⟨u, by rw [← hu, ← hrest]; rfl, hcalls⟩

end

/-! ## What the parameters' constraints give (00_scope.md R7) -/

theorem two_le_bufCap {p : Params} (h : p.wf) : 2 ≤ p.bufCap := by
  obtain ⟨-, -, -, -, -, -, -, -, -, -, -, hcap⟩ := h
  exact hcap

theorem addrSec_lt {p : Params} (h : p.wf) : p.addrSec + 6 < mapSize := h.1

theorem addrSt1_lt {p : Params} (h : p.wf) : p.addrSt1 < mapSize := by
  obtain ⟨-, hst1, -⟩ := h
  exact hst1

theorem addrInt_lt {p : Params} (h : p.wf) : p.addrInt < mapSize := by
  obtain ⟨-, -, -, hint, -⟩ := h
  exact hint

theorem addrSt1_ne_addrInt {p : Params} (h : p.wf) : p.addrSt1 ≠ p.addrInt := by
  obtain ⟨-, -, -, -, -, hne, -⟩ := h
  exact hne

theorem addrSt1_not_inTimeBlock {p : Params} (h : p.wf) : ¬ p.inTimeBlock p.addrSt1 := by
  obtain ⟨-, -, -, -, -, -, -, hst1, -⟩ := h
  exact hst1

/-! ## Register reads (60_exceptions.md R107) -/

/-- The two calls of a read of `n` Bytes from register `r`. -/
def readCalls (r n : Nat) : List BusCall := [.send (slaveAddress false) [regByte r], .receive (slaveAddress true) n]

theorem readRegisters_completes (p : Params) {r n : Nat} {s : State} (hr : r < mapSize) (hn : r + n ≤ mapSize) :
    Completes (readRegisters p r n) s (readCalls r n) (s.store.readBytes r n) { s with pointer := r + n } := by
  intro past rest
  simp only [readRegisters, readCalls]
  rw [send_pointer rfl hr, Reply.andThen_done, receive_of_success rfl hn]
  simp [State.withTransport]

theorem readRegisters_stops (p : Params) (r n : Nat) (s : State) : StopsAtFailure (readRegisters p r n) s 2 := by
  intro past k kind rest hk
  match k, hk with
  | 0, _ => exact ⟨_, by rw [readRegisters, send_of_failure rfl]; rfl, by simp⟩
  | 1, _ =>
    exact ⟨_, by rw [readRegisters, send_eq, callHook_of_success rfl, Reply.andThen_done, deliver_pointer, Reply.andThen_done,
      receive_of_failure rfl], by simp⟩

theorem readRegister_completes (p : Params) {r : Nat} {s : State} (hr : r < mapSize) :
    Completes (readRegister p r) s (readCalls r 1) (s.store.read r) { s with pointer := r + 1 } := by
  intro past rest
  rw [readRegister, readRegisters_completes p hr hr]
  rfl

theorem readRegister_stops (p : Params) (r : Nat) (s : State) : StopsAtFailure (readRegister p r) s 2 := by
  intro past k kind rest hk
  obtain ⟨u, hu, hcalls⟩ := readRegisters_stops p r 1 s past k kind rest hk
  exact ⟨u, by rw [readRegister, hu]; rfl, hcalls⟩

/-! ## Register writes and the chunked burst (60_exceptions.md R107, R110) -/

/-- `s` after data was written from register `r` in one send. -/
def State.written (s : State) (r : Nat) (data : List Byte) : State :=
  { s with store := s.store.writeBytes r data, pointer := Config.pointerAfterWrite r data.length }

@[simp] theorem State.written_store (s : State) (r : Nat) (data : List Byte) :
    (s.written r data).store = s.store.writeBytes r data := rfl

/-- A run of `n` data Bytes from register `r` has a meaning however it is cut into chunks: it is inside the map and the
bracket, and it does not touch ST1. -/
structure WritableRun (p : Params) (r n : Nat) (s : State) : Prop where
  inMap : r + n ≤ mapSize
  unprotected : s.unprotected p
  missesSt1 : p.addrSt1 < r ∨ r + n ≤ p.addrSt1

theorem WritableRun.shorter {p : Params} {r n n' : Nat} {s : State} (h : WritableRun p r n s) (hn : n' ≤ n) :
    WritableRun p r n' s := by
  obtain ⟨hmap, hu, hst1⟩ := h
  exact ⟨by omega, hu, by omega⟩

/-- Once its first Bytes are written, the rest of the run still has its meaning. -/
theorem WritableRun.afterWrite {p : Params} {r n : Nat} {data : List Byte} {s : State}
    (h : WritableRun p r (data.length + n) s) : WritableRun p (r + data.length) n (s.written r data) := by
  obtain ⟨hmap, hu, hst1⟩ := h
  refine ⟨by omega, ?_, by omega⟩
  rw [State.unprotected, State.written_store, Memory.read_writeBytes_of_outside _ (by omega)]
  exact hu

theorem send_completes {p : Params} {r : Nat} {data : List Byte} {s : State} (hdata : data ≠ [])
    (hr : r + data.length ≤ mapSize) (hu : s.unprotected p ∨ (r = p.addrSt1 ∧ data.length = 1)) :
    Completes (send p (regByte r :: data)) s [writeCall r data] () (s.written r data) :=
  fun _ _ => send_data rfl hdata hr hu

theorem writeRegister_completes {p : Params} {r : Nat} {v : Byte} {s : State} (hcap : 2 ≤ p.bufCap) (hr : r < mapSize)
    (hu : s.unprotected p ∨ r = p.addrSt1) : Completes (writeRegister p r v) s [writeCall r [v]] () (s.written r [v]) := by
  intro past rest
  rw [writeRegister_eq p r v _ hcap]
  exact send_completes (by simp) hr (hu.imp_right fun h => ⟨h, rfl⟩) past rest

theorem writeRegister_of_failure {p : Params} {r : Nat} {v : Byte} {s : State} {kind : Nat} {rest : List Answer}
    (hcap : 2 ≤ p.bufCap) (h : s.answers = .failure kind :: rest) :
    writeRegister p r v s = .failed .transportFailure (s.withTransport (s.calls ++ [writeCall r [v]]) rest) := by
  rw [writeRegister_eq p r v s hcap, send_of_failure h]
  rfl

theorem writeRegister_stops {p : Params} {r : Nat} {v : Byte} {s : State} (hcap : 2 ≤ p.bufCap) :
    StopsAtFailure (writeRegister p r v) s 1 := by
  intro past k kind rest hk
  obtain rfl : k = 0 := by omega
  exact ⟨_, writeRegister_of_failure hcap rfl, by simp⟩

/-- Chunks sent one after the other leave what one run of writes would leave. -/
theorem sendChunks_completes {p : Params} {r : Nat} {cs : List (List Byte)} {s : State} (hne : ∀ c ∈ cs, c ≠ [])
    (h : WritableRun p r cs.flatten.length s) :
    ∃ q, Completes (sendChunks p r cs) s (chunkCalls r cs) ()
      { s with store := s.store.writeBytes r cs.flatten, pointer := q } := by
  induction cs generalizing r s with
  | nil => exact ⟨s.pointer, fun past rest => by simp [sendChunks, chunkCalls, Memory.writeBytes]⟩
  | cons c cs ih =>
    rw [List.flatten_cons, List.length_append] at h
    obtain ⟨hc, hcs⟩ := List.forall_mem_cons.1 hne
    obtain ⟨hmap, hu, -⟩ := h.shorter (Nat.le_add_right _ _)
    obtain ⟨q, hq⟩ := ih hcs h.afterWrite
    refine ⟨q, ?_⟩
    rw [List.flatten_cons, Memory.writeBytes_append]
    exact (send_completes hc hmap (.inl hu)).andThen hq

theorem Reply.andThen_assoc {α β γ : Type} (x : Reply α) (f : α → State → Reply β) (g : β → State → Reply γ) :
    (x.andThen f).andThen g = x.andThen fun v t => (f v t).andThen g := by
  cases x <;> rfl

theorem sendChunks_append (p : Params) (r : Nat) (cs ds : List (List Byte)) (s : State) :
    sendChunks p r (cs ++ ds) s = (sendChunks p r cs s).andThen fun _ t => sendChunks p (r + cs.flatten.length) ds t := by
  induction cs generalizing r s with
  | nil => rfl
  | cons c cs ih => simp only [List.cons_append, sendChunks, ih, Reply.andThen_assoc, List.flatten_cons, List.length_append,
      Nat.add_assoc]

/-- A failing chunk leaves what the chunks before it wrote (60_exceptions.md R117), and no chunk follows. -/
theorem sendChunks_of_failure {p : Params} {r kind : Nat} {sent later : List (List Byte)} {c : List Byte} {s : State}
    {past : List BusCall} {rest : List Answer} (hne : ∀ c ∈ sent, c ≠ []) (h : WritableRun p r sent.flatten.length s) :
    ∃ q cs, cs.length = sent.length + 1 ∧
      sendChunks p r (sent ++ c :: later) (s.withTransport past (List.replicate sent.length .success ++ .failure kind :: rest)) =
        .failed .transportFailure
          ({ s with store := s.store.writeBytes r sent.flatten, pointer := q }.withTransport (past ++ cs) rest) := by
  obtain ⟨q, hq⟩ := sendChunks_completes hne h
  have hsent := hq past (.failure kind :: rest)
  rw [length_chunkCalls] at hsent
  refine ⟨q, chunkCalls r sent ++ [writeCall (r + sent.flatten.length) c], by simp, ?_⟩
  rw [sendChunks_append, hsent, Reply.andThen_done, sendChunks, send_of_failure rfl, Reply.andThen_failed, ← List.append_assoc]
  rfl

/-- The chunks of the data, as the burst write cuts it. -/
abbrev burstChunks (p : Params) (data : List Byte) : List (List Byte) := chunks (p.bufCap - 1) data.length data

section
variable {p : Params} {r : Nat} {data : List Byte} {s : State} (hcap : 2 ≤ p.bufCap) (h : WritableRun p r data.length s)
include hcap h

theorem burstWrite_completes :
    ∃ q, Completes (burstWrite p r data) s (chunkCalls r (burstChunks p data)) ()
      { s with store := s.store.writeBytes r data, pointer := q } := by
  have hd : 0 < p.bufCap - 1 := by omega
  have hflatten := flatten_chunks hd (Nat.le_refl data.length)
  have hrun := sendChunks_completes (p := p) (r := r) (s := s) (fun c hc => ne_nil_of_mem_chunks hd (Nat.le_refl data.length) hc)
    (by rwa [hflatten])
  rwa [hflatten] at hrun

/-- When chunk `k` fails, the first `k` full chunks are written (60_exceptions.md R110). -/
theorem burstWrite_of_failure {k : Nat} (hk : k * (p.bufCap - 1) < data.length) (kind : Nat) (past : List BusCall)
    (rest : List Answer) :
    ∃ q cs, cs.length = k + 1 ∧
      burstWrite p r data (s.withTransport past (List.replicate k .success ++ .failure kind :: rest)) =
        .failed .transportFailure
          ({ s with store := s.store.writeBytes r (data.take (k * (p.bufCap - 1))), pointer := q }.withTransport
            (past ++ cs) rest) := by
  have hd : 0 < p.bufCap - 1 := by omega
  have hlt : k < (burstChunks p data).length := (lt_length_chunks_iff hd (Nat.le_refl _) k).2 hk
  have hsent : ((burstChunks p data).take k).flatten = data.take (k * (p.bufCap - 1)) :=
    flatten_take_chunks hd (Nat.le_refl data.length) k
  have hlength : ((burstChunks p data).take k).length = k := List.length_take_of_le hlt.le
  have hsplit : (burstChunks p data).take k ++ (burstChunks p data)[k] :: (burstChunks p data).drop (k + 1) =
      burstChunks p data := by
    rw [List.getElem_cons_drop, List.take_append_drop]
  have hrun := sendChunks_of_failure (p := p) (r := r) (kind := kind) (s := s) (past := past) (rest := rest)
    (sent := (burstChunks p data).take k) (later := (burstChunks p data).drop (k + 1)) (c := (burstChunks p data)[k])
    (fun c hc => ne_nil_of_mem_chunks hd (Nat.le_refl data.length) (List.mem_of_mem_take hc))
    (h.shorter (by rw [hsent]; exact List.length_take_le' _ _))
  rwa [hsplit, hsent, hlength] at hrun

theorem burstWrite_stops : StopsAtFailure (burstWrite p r data) s (burstChunks p data).length := by
  intro past k kind rest hk
  have hk' := (lt_length_chunks_iff (by omega) (Nat.le_refl data.length) k).1 hk
  obtain ⟨q, cs, hcs, hrun⟩ := burstWrite_of_failure hcap h hk' kind past rest
  exact ⟨_, hrun, by rw [State.withTransport_calls, List.length_append, hcs, Nat.add_assoc]⟩

end

/-- Settles O46: the chunks' lengths and places are those of the cut, and together they are the data. -/
theorem burstWriteRefinesOneWrite : Obligations.BurstWriteRefinesOneWrite := by
  intro p r data s hcap hmap hu hst1 hs
  have hd : 0 < p.bufCap - 1 := by omega
  obtain ⟨q, hq⟩ := burstWrite_completes hcap ⟨hmap, hu, hst1⟩
  obtain ⟨rest, hrun⟩ := hq.run hs (by rw [length_chunkCalls]; exact length_chunks_le hd (Nat.le_refl _))
  refine ⟨burstChunks p data, _, hrun, flatten_chunks hd (Nat.le_refl _), length_chunks hd (Nat.le_refl _), fun j c hj => ?length,
    ?calls, fun k hk => Memory.read_writeBytes_at s.store r hk, fun k hk => ?frame⟩
  case length =>
    rw [getElem?_chunks hd (Nat.le_refl _)] at hj
    split at hj
    · obtain rfl := Option.some.inj hj
      rw [List.length_take, List.length_drop]
    · cases hj
  case calls =>
    rw [State.withTransport_calls, chunkCalls_chunks]
    rfl
  case frame => exact Memory.read_writeBytes_of_outside s.store (by omega)

/-- Settles O47: before the failing chunk the full chunks have been sent, and the failing one leaves the store alone. -/
theorem failedChunkKeepsEarlierChunks : Obligations.FailedChunkKeepsEarlierChunks := by
  intro p r data s k hcap hmap hu hst1 hk hs
  obtain ⟨kind, rest, hrest⟩ := hs
  obtain ⟨q, cs, hcs, hrun⟩ := burstWrite_of_failure hcap ⟨hmap, hu, hst1⟩ hk kind s.calls rest
  have hlength : (data.take (k * (p.bufCap - 1))).length = k * (p.bufCap - 1) := List.length_take_of_le hk.le
  rw [← hrest] at hrun
  refine ⟨_, hrun, by rw [State.withTransport_calls, List.length_append, hcs, Nat.add_assoc], fun i hi => ?_, fun i hi => ?_⟩
  · have hwritten := Memory.read_writeBytes_at (bs := data.take (k * (p.bufCap - 1))) s.store r (by rwa [hlength])
    rwa [List.getElem?_take_of_lt hi] at hwritten
  · exact Memory.read_writeBytes_of_outside s.store (by omega)

end Sys2Proof.Machine
end

section
/-! PROOFS. Family other, SetDateTime, GetDateTime and SetOutputWave under given answers of the transport: their calls, the
registers they leave, and what a failing call leaves (60_exceptions.md R104 to R109, R114 to R117). -/
namespace Sys2Proof.Machine

/-! ## The write-protect bracket (60_exceptions.md R108, R109) -/

/-- The call of a write of ST1. -/
def st1Call (p : Params) (v : Byte) : BusCall := writeCall p.addrSt1 [v]

theorem writeSt1_completes {p : Params} (hp : p.wf) (v : Byte) (s : State) :
    Completes (writeRegister p p.addrSt1 v) s [st1Call p v] () (s.written p.addrSt1 [v]) :=
  writeRegister_completes (two_le_bufCap hp) (addrSt1_lt hp) (.inr rfl)

theorem unprotected_written_wpClear (p : Params) (s : State) : (s.written p.addrSt1 [p.wpClear]).unprotected p := by
  simp [State.unprotected, Memory.writeBytes, Memory.read_write]

theorem Completes.reprotect {p : Params} {write : State → Reply Unit} {s t : State} {cs : List BusCall}
    (h : Completes write s cs () t) : Completes (fun s => reprotect p (write s)) s cs () t := by
  intro past rest
  change Machine.reprotect p (write _) = _
  rw [h]
  rfl

theorem reprotect_failed_of_off {p : Params} (h : p.reprotectOnFailure = false) (e : ErrorKind) (u : State) :
    reprotect p (.failed e u) = .failed e u := by
  simp [reprotect, h]

theorem StopsAtFailure.reprotect {p : Params} (hoff : p.reprotectOnFailure = false) {write : State → Reply Unit} {s : State}
    {n : Nat} (h : StopsAtFailure write s n) : StopsAtFailure (fun s => reprotect p (write s)) s n := by
  intro past k kind rest hk
  obtain ⟨u, hu, hcalls⟩ := h past k kind rest hk
  refine ⟨u, ?_, hcalls⟩
  change Machine.reprotect p (write _) = _
  rw [hu, reprotect_failed_of_off hoff]

section
variable {p : Params} {write : State → Reply Unit} {s t : State} {cs : List BusCall}

theorem bracket_completes (hp : p.wf) (h : Completes write (s.written p.addrSt1 [p.wpClear]) cs () t) :
    Completes (bracket p write) s (st1Call p p.wpClear :: (cs ++ [st1Call p p.wpSet])) () (t.written p.addrSt1 [p.wpSet]) :=
  (writeSt1_completes hp p.wpClear s).andThen (h.reprotect.andThen (writeSt1_completes hp p.wpSet t))

theorem bracket_stops (hp : p.wf) (hoff : p.reprotectOnFailure = false)
    (hc : Completes write (s.written p.addrSt1 [p.wpClear]) cs () t)
    (h : StopsAtFailure write (s.written p.addrSt1 [p.wpClear]) cs.length) :
    StopsAtFailure (bracket p write) s (1 + (cs.length + 1)) :=
  StopsAtFailure.andThen (writeSt1_completes hp p.wpClear s) (writeRegister_stops (two_le_bufCap hp))
    (StopsAtFailure.andThen hc.reprotect (h.reprotect hoff) (writeRegister_stops (two_le_bufCap hp)))

/-- What becomes of the state `u` of a failed data write: with REPROTECT_ON_FAILURE one set-protect write, whose outcome
decides ST1 and nothing else; without it, nothing (60_exceptions.md R109). -/
structure Reprotected (p : Params) (u t : State) : Prop where
  off : p.reprotectOnFailure = false → t = u
  calls : p.reprotectOnFailure = true → t.calls = u.calls ++ [st1Call p p.wpSet]
  success : p.reprotectOnFailure = true → ∀ rest, u.answers = .success :: rest → t.store = u.store.write p.addrSt1 p.wpSet
  failure : p.reprotectOnFailure = true → ∀ kind rest, u.answers = .failure kind :: rest → t.store = u.store

theorem Reprotected.length_calls_of_on {u t : State} (h : Reprotected p u t) (hon : p.reprotectOnFailure = true) :
    t.calls.length = u.calls.length + 1 := by simp [h.calls hon]

theorem Reprotected.getLast?_calls_of_on {u t : State} (h : Reprotected p u t) (hon : p.reprotectOnFailure = true) :
    t.calls.getLast? = some (st1Call p p.wpSet) := by simp [h.calls hon]

/-- The set-protect write goes through or fails: it is never refused. -/
theorem setProtect_cases (hp : p.wf) (u : State) :
    ∃ rest, (setProtect p u = .done () ((u.written p.addrSt1 [p.wpSet]).withTransport (u.calls ++ [st1Call p p.wpSet]) rest) ∧
        ∀ kind xs, u.answers ≠ .failure kind :: xs) ∨
      (setProtect p u = .failed .transportFailure (u.withTransport (u.calls ++ [st1Call p p.wpSet]) rest) ∧
        ∀ xs, u.answers ≠ .success :: xs) := by
  have hst1 := addrSt1_lt hp
  have hsend : setProtect p u = (callHook (st1Call p p.wpSet) u).andThen fun _ t => peripheralWrite p p.addrSt1 [p.wpSet] t := by
    rw [setProtect, writeRegister_eq p _ _ u (two_le_bufCap hp), send_eq]
    simp only [deliver, toNat_regByte hst1]
    rfl
  obtain ⟨rest, ⟨hcall, hnot⟩ | ⟨hcall, hnot⟩⟩ := callHook_cases (st1Call p p.wpSet) u
  · refine ⟨rest, .inl ⟨?_, hnot⟩⟩
    rw [hsend, hcall, Reply.andThen_done, peripheralWrite_eq hst1 (.inr ⟨rfl, rfl⟩)]
    rfl
  · exact ⟨rest, .inr ⟨by rw [hsend, hcall, Reply.andThen_failed], hnot⟩⟩

theorem reprotect_failed_of_on (hon : p.reprotectOnFailure = true) (e : ErrorKind) {u t : State}
    (h : setProtect p u = .done () t ∨ ∃ e', setProtect p u = .failed e' t) : reprotect p (.failed e u) = .failed e t := by
  rw [reprotect, if_pos hon]
  obtain h | ⟨e', h⟩ := h <;> rw [h]

theorem reprotect_failed (hp : p.wf) (e : ErrorKind) (u : State) :
    ∃ t, reprotect p (.failed e u) = .failed e t ∧ Reprotected p u t := by
  by_cases hon : p.reprotectOnFailure = true
  · have hnotOff {q : Prop} (hoff : p.reprotectOnFailure = false) : q := absurd hon (by simp [hoff])
    obtain ⟨rest, ⟨hset, hnot⟩ | ⟨hset, hnot⟩⟩ := setProtect_cases hp u
    · exact ⟨_, reprotect_failed_of_on hon e (.inl hset), hnotOff, fun _ => rfl, fun _ _ _ => rfl,
        fun _ kind xs hxs => absurd hxs (hnot kind xs)⟩
    · exact ⟨_, reprotect_failed_of_on hon e (.inr ⟨_, hset⟩), hnotOff, fun _ => rfl, fun _ xs hxs => absurd hxs (hnot xs),
        fun _ _ _ _ => rfl⟩
  · exact ⟨u, reprotect_failed_of_off (Bool.eq_false_iff.2 hon) e u, fun _ => rfl, fun h => absurd h hon,
      fun h => absurd h hon, fun h => absurd h hon⟩

/-- A bracket whose data write fails ends with that failure, re-protected as configured. -/
theorem bracket_of_failed_write (hp : p.wf) {past : List BusCall} {xs : List Answer} {e : ErrorKind} {u : State}
    (hwrite : write ((s.written p.addrSt1 [p.wpClear]).withTransport (past ++ [st1Call p p.wpClear]) xs) = .failed e u) :
    ∃ t, bracket p write (s.withTransport past (.success :: xs)) = .failed e t ∧ Reprotected p u t := by
  obtain ⟨t, ht, hafter⟩ := reprotect_failed hp e u
  have hclear : clearProtect p (s.withTransport past (.success :: xs)) = _ := writeSt1_completes hp p.wpClear s past xs
  exact ⟨t, by rw [bracket, hclear, Reply.andThen_done, hwrite, ht, Reply.andThen_failed], hafter⟩

end

/-! ## SetDateTime (60_exceptions.md R104) -/

/-- `s` once the block has checked `x` and encoded it. -/
def State.encoding (s : State) (x : Fields) : State :=
  (((s.presentVector .chkdt x).setOk true).presentVector .pkdt x).setVy (packFields x).toPort

@[simp] theorem State.encoding_calls (s : State) (x : Fields) : (s.encoding x).calls = s.calls := rfl

/-- What SetDateTime does on the bus: the encoded Bytes inside the bracket. -/
def writeTime (p : Params) (x : Fields) : State → Reply Unit := bracket p (burstWrite p p.addrSec (packFields x).toList)

theorem setDateTime_of_valid {s : State} {x : Fields} (hready : s.ready = true) (hx : validDateTime x = true) (p : Params) :
    setDateTime p x s = writeTime p x (s.encoding x) := by
  simp only [setDateTime, hready, if_true, checked_chkdt, hx, askVy_pkdt, Reply.andThen_done]
  rfl

theorem setDateTime_of_invalid {s : State} {x : Fields} (hready : s.ready = true) (hx : validDateTime x = false) (p : Params) :
    setDateTime p x s = .failed .invalidParameter ((s.presentVector .chkdt x).setOk false) := by
  simp [setDateTime, hready, hx]

/-- The seven time registers are a run inside the bracket that does not touch ST1. -/
theorem writableRun_time {p : Params} (hp : p.wf) (x : Fields) (s : State) :
    WritableRun p p.addrSec (packFields x).toList.length (s.written p.addrSt1 [p.wpClear]) := by
  have hsec := addrSec_lt hp
  have hst1 := addrSt1_not_inTimeBlock hp
  rw [Params.inTimeBlock, not_and_or, Nat.not_le, Nat.not_le] at hst1
  rw [length_toList]
  exact ⟨by omega, unprotected_written_wpClear p s, by omega⟩

/-- The calls of the bracketed burst. -/
def timeCalls (p : Params) (x : Fields) : List BusCall :=
  st1Call p p.wpClear :: (chunkCalls p.addrSec (burstChunks p (packFields x).toList) ++ [st1Call p p.wpSet])

theorem length_timeCalls {p : Params} (hp : p.wf) (x : Fields) :
    (timeCalls p x).length = 2 + (7 + (p.bufCap - 1) - 1) / (p.bufCap - 1) := by
  have hcap := two_le_bufCap hp
  simp only [timeCalls, List.length_cons, List.length_append, length_chunkCalls, List.length_nil]
  rw [length_chunks (by omega) (Nat.le_refl _), length_toList]
  omega

theorem length_timeCalls_le {p : Params} (hp : p.wf) (x : Fields) : (timeCalls p x).length ≤ 9 := by
  have hcap := two_le_bufCap hp
  have hchunks : (burstChunks p (packFields x).toList).length ≤ 7 := length_chunks_le (by omega) (Nat.le_refl _)
  simp only [timeCalls, List.length_cons, List.length_append, length_chunkCalls, List.length_nil]
  omega

/-- The register store a successful SetDateTime leaves. -/
def timeStore (p : Params) (x : Fields) (m : Memory) : Memory :=
  ((m.write p.addrSt1 p.wpClear).writeBytes p.addrSec (packFields x).toList).write p.addrSt1 p.wpSet

theorem writeTime_completes {p : Params} (hp : p.wf) (x : Fields) (s : State) :
    ∃ q, Completes (writeTime p x) s (timeCalls p x) () { s with store := timeStore p x s.store, pointer := q } := by
  obtain ⟨q, hq⟩ := burstWrite_completes (two_le_bufCap hp) (writableRun_time hp x s)
  exact ⟨_, bracket_completes hp hq⟩

theorem writeTime_stops {p : Params} (hp : p.wf) (hoff : p.reprotectOnFailure = false) (x : Fields) (s : State) :
    StopsAtFailure (writeTime p x) s (timeCalls p x).length := by
  obtain ⟨q, hq⟩ := burstWrite_completes (two_le_bufCap hp) (writableRun_time hp x s)
  have hstops := burstWrite_stops (two_le_bufCap hp) (writableRun_time hp x s)
  rw [← length_chunkCalls p.addrSec] at hstops
  have hlength : (timeCalls p x).length =
      1 + ((chunkCalls p.addrSec (burstChunks p (packFields x).toList)).length + 1) := by
    simp only [timeCalls, List.length_cons, List.length_append, List.length_nil]
    omega
  rw [hlength]
  exact bracket_stops hp hoff hq hstops

theorem read_timeStore_addrSt1 (p : Params) (x : Fields) (m : Memory) : (timeStore p x m).read p.addrSt1 = p.wpSet := by
  simp [timeStore, Memory.read_write]

theorem read_timeStore_time {p : Params} (hp : p.wf) (x : Fields) (m : Memory) (i : Fin 7) :
    (timeStore p x m).read (p.addrSec + i) = (packFields x).get i := by
  have hne : p.addrSec + i ≠ p.addrSt1 := by
    have hst1 := addrSt1_not_inTimeBlock hp
    rw [Params.inTimeBlock, not_and_or] at hst1
    omega
  have hwritten := Memory.read_writeBytes_at (bs := (packFields x).toList) (m.write p.addrSt1 p.wpClear) p.addrSec i.isLt
  rw [toList_getElem?] at hwritten
  rw [timeStore, Memory.read_write, if_neg hne, ← Option.some.inj hwritten]

theorem read_timeStore_of_other {p : Params} (x : Fields) (m : Memory) {r : Nat} (hr : ¬ (p.inTimeBlock r ∨ r = p.addrSt1)) :
    (timeStore p x m).read r = m.read r := by
  obtain ⟨htime, hst1⟩ := not_or.1 hr
  rw [Params.inTimeBlock, not_and_or] at htime
  rw [timeStore, Memory.read_write, if_neg hst1, Memory.read_writeBytes_of_outside _ (by rw [length_toList]; omega),
    Memory.read_write, if_neg hst1]

/-- A successful SetDateTime as a whole: its calls, its store, and how many successes are left over. -/
theorem setDateTime_of_successes {p : Params} {x : Fields} {s : State} {n : Nat} (hp : p.wf) (hready : s.ready = true)
    (hx : validDateTime x = true) (hs : s.TransportSucceeds n) (hn : (timeCalls p x).length ≤ n) :
    ∃ t, setDateTime p x s = .done () t ∧ t.calls = s.calls ++ timeCalls p x ∧ t.store = timeStore p x s.store ∧
      t.handler = s.handler ∧ t.ready = true ∧ t.TransportSucceeds (n - (timeCalls p x).length) := by
  obtain ⟨q, hq⟩ := writeTime_completes hp x (s.encoding x)
  obtain ⟨rest, hrun⟩ := hq.run hs hn
  exact ⟨_, (setDateTime_of_valid hready hx p).trans hrun, rfl, rfl, rfl, hready, rest, rfl⟩

/-- With a buffer of eight Bytes or more, the burst is one chunk. -/
theorem burstChunks_of_fits {p : Params} {data : List Byte} (hdata : data ≠ []) (h : data.length < p.bufCap) :
    burstChunks p data = [data] := by
  obtain ⟨b, bs, rfl⟩ := List.exists_cons_of_ne_nil hdata
  simp only [List.length_cons] at h
  have htake : (b :: bs).take (p.bufCap - 1) = b :: bs := List.take_of_length_le (by simp only [List.length_cons]; omega)
  have hdrop : (b :: bs).drop (p.bufCap - 1) = [] := List.drop_of_length_le (by simp only [List.length_cons]; omega)
  rw [burstChunks, List.length_cons, chunks, htake, hdrop]
  cases bs.length <;> rfl

/-- Settles O40: the burst's one chunk stands between the two writes of ST1. -/
theorem setDateTimeCallSequence : Obligations.SetDateTimeCallSequence := by
  intro p x s hp hcap hready hx hs
  have hcalls : timeCalls p x =
      [st1Call p p.wpClear, writeCall p.addrSec (packFields x).toList, st1Call p p.wpSet] := by
    rw [timeCalls, burstChunks_of_fits (by simp [Fields.toList]) (Nat.lt_of_lt_of_le (by decide : 7 < 8) hcap)]
    rfl
  obtain ⟨t, ht, htcalls, -⟩ := setDateTime_of_successes hp hready hx hs (by rw [hcalls]; rfl)
  exact ⟨t, packFields x, answersVy_pkdt_iff.2 rfl, ht, by rw [htcalls, hcalls]; rfl⟩

/-- Settles O41: the store it leaves, register by register. -/
theorem setDateTimeLeavesEncodedTime : Obligations.SetDateTimeLeavesEncodedTime := by
  intro p x s hp hready hx hs
  obtain ⟨t, ht, -, hstore, hhandler, hready', -⟩ := setDateTime_of_successes hp hready hx hs (length_timeCalls_le hp x)
  refine ⟨t, packFields x, answersVy_pkdt_iff.2 rfl, ht, fun i => ?_, ?_, fun r hr => ?_, hhandler, hready'⟩
  · rw [hstore, read_timeStore_time hp]
  · rw [hstore, read_timeStore_addrSt1]
  · rw [hstore, read_timeStore_of_other x s.store hr]

/-! ## GetDateTime (60_exceptions.md R105) -/

/-- The seven registers from `r`, in index order. -/
def Memory.readFields (m : Memory) (r : Nat) : Fields :=
  ⟨m.read r, m.read (r + 1), m.read (r + 2), m.read (r + 3), m.read (r + 4), m.read (r + 5), m.read (r + 6)⟩

theorem get_readFields (m : Memory) (r : Nat) (i : Fin 7) : (m.readFields r).get i = m.read (r + i) := by
  fin_cases i <;> rfl

theorem readFields_eq_of_holdsTime {p : Params} {s : State} {b : Fields} (h : s.HoldsTime p b) :
    s.store.readFields p.addrSec = b :=
  Fields.eq_of_get ((get_readFields s.store p.addrSec 0).trans (h 0))
    fun i _ => (get_readFields s.store p.addrSec i).trans (h i)

/-- What GetDateTime makes of the Bytes it read. -/
def decodeTime (bs : List Byte) (t : State) : Reply Fields :=
  match Fields.ofList bs with
  | none => .refused .blockSilent
  | some buf => .done (unpackFields buf) ((t.presentVector .updt buf).setVy (unpackFields buf).toPort)

theorem getDateTime_of_ready {s : State} (hready : s.ready = true) (p : Params) :
    getDateTime p s = (readRegisters p p.addrSec 7 s).andThen decodeTime := by
  rw [getDateTime, if_pos hready]
  congr 1
  funext bs t
  rw [decodeTime]
  cases Fields.ofList bs with
  | none => rfl
  | some buf => exact askVy_updt buf t

/-- `s` once the block has decoded the time registers a burst read has returned. -/
def State.decoding (s : State) (p : Params) : State :=
  { ((s.presentVector .updt (s.store.readFields p.addrSec)).setVy (unpackFields (s.store.readFields p.addrSec)).toPort) with
    pointer := p.addrSec + 7 }

theorem getDateTime_completes {p : Params} (hp : p.wf) {s : State} (hready : s.ready = true) :
    Completes (getDateTime p) s (readCalls p.addrSec 7) (unpackFields (s.store.readFields p.addrSec)) (s.decoding p) := by
  have hsec := addrSec_lt hp
  intro past rest
  refine (getDateTime_of_ready (by exact hready) p).trans ?_
  rw [readRegisters_completes p (by omega) hsec]
  rfl

theorem getDateTime_stops (p : Params) {s : State} (hready : s.ready = true) : StopsAtFailure (getDateTime p) s 2 := by
  intro past k kind rest hk
  obtain ⟨u, hu, hcalls⟩ := readRegisters_stops p p.addrSec 7 s past k kind rest hk
  refine ⟨u, (getDateTime_of_ready (by exact hready) p).trans ?_, hcalls⟩
  rw [hu, Reply.andThen_failed]

/-- Settles O42: the two calls of a read, and the decode of what it returns. -/
theorem getDateTimeDecodesTimeRegisters : Obligations.GetDateTimeDecodesTimeRegisters := by
  intro p s hp hready hs
  obtain ⟨rest, hrun⟩ := (getDateTime_completes hp hready).run hs (Nat.le_refl 2)
  exact ⟨_, _, s.store.readFields p.addrSec, fun i => (get_readFields _ _ i).symm, answersVy_updt_iff.2 rfl, hrun, rfl, rfl⟩

/-- Settles O44: what is read back is what was encoded, and decoding undoes the encode of a valid DateTime. -/
theorem setThenGetReturnsSameDateTime : Obligations.SetThenGetReturnsSameDateTime := by
  intro p x s hp hready hx hs
  have hlength := length_timeCalls_le hp x
  obtain ⟨t, ht, -, hstore, -, hready', hs'⟩ := setDateTime_of_successes hp hready hx hs (by omega)
  obtain ⟨rest, hrun⟩ := (getDateTime_completes hp hready').run hs' (show 2 ≤ _ by omega)
  have hread : t.store.readFields p.addrSec = packFields x :=
    readFields_eq_of_holdsTime fun i => by rw [hstore, read_timeStore_time hp]
  have hdecode : unpackFields (packFields x) = x := by
    obtain ⟨hsecond, -⟩ := (validDateTime_iff x).1 hx
    exact unpackFields_packFields (inDomD2b_of_validDateTime hx) (Nat.mod_eq_of_lt (by omega)).symm
  rw [hread, hdecode] at hrun
  exact ⟨t, _, ht, hrun, rfl⟩

/-! ## SetOutputWave (60_exceptions.md R106) -/

/-- The Byte SetOutputWave writes to INT, from the one it read. -/
def waveByte (mode r : Byte) : Byte := ofNibbles (hiNibble r) (loNibble mode)

/-- `s` once the block has formed the INT Byte. -/
def State.packingWave (s : State) (mode r : Byte) : State :=
  (s.presentScalar .pkwave r (loNibble mode)).setY (waveByte mode r)

/-- The write of INT inside the bracket, by the state after the read of INT. -/
def writeWave (p : Params) (mode r : Byte) (s : State) : Reply Unit :=
  bracket p (writeRegister p p.addrInt (waveByte mode r)) (s.packingWave mode r)

/-- The second read of INT, whose Byte is not looked at. -/
def rereadInt (p : Params) (s : State) : Reply Unit := (readRegister p p.addrInt s).andThen fun _ t => .done () t

/-- What SetOutputWave does on the bus: read INT, write it with its low nibble replaced, read it again. -/
def rewriteWave (p : Params) (mode : Byte) (s : State) : Reply Unit :=
  (readRegister p p.addrInt s).andThen fun r t => (writeWave p mode r t).andThen fun _ => rereadInt p

theorem setOutputWave_of_valid {s : State} {mode : Byte} (hready : s.ready = true) (hmode : validWave mode = true) (p : Params) :
    setOutputWave p mode s = rewriteWave p mode ((s.presentScalar .chkwave mode s.f).setOk true) := by
  simp only [setOutputWave, hready, if_true, checked_chkwave, hmode, askY_pkwave, Reply.andThen_done, pkwave_eq_ofNibbles]
  rfl

theorem setOutputWave_of_invalid {s : State} {mode : Byte} (hready : s.ready = true) (hmode : validWave mode = false)
    (p : Params) : setOutputWave p mode s = .failed .invalidParameter ((s.presentScalar .chkwave mode s.f).setOk false) := by
  simp [setOutputWave, hready, hmode]

theorem rereadInt_stops (p : Params) (s : State) : StopsAtFailure (rereadInt p) s 2 := by
  intro past k kind rest hk
  obtain ⟨u, hu, hcalls⟩ := readRegister_stops p p.addrInt s past k kind rest hk
  exact ⟨u, by rw [rereadInt, hu, Reply.andThen_failed], hcalls⟩

section
variable {p : Params} (hp : p.wf) (mode r : Byte) (s : State)
include hp

theorem writeInt_completes (v : Byte) (s : State) :
    Completes (writeRegister p p.addrInt v) (s.written p.addrSt1 [p.wpClear]) [writeCall p.addrInt [v]] ()
      ((s.written p.addrSt1 [p.wpClear]).written p.addrInt [v]) :=
  writeRegister_completes (two_le_bufCap hp) (addrInt_lt hp) (.inl (unprotected_written_wpClear p s))

theorem writeWave_completes :
    Completes (writeWave p mode r) s [st1Call p p.wpClear, writeCall p.addrInt [waveByte mode r], st1Call p p.wpSet] ()
      ((((s.packingWave mode r).written p.addrSt1 [p.wpClear]).written p.addrInt [waveByte mode r]).written p.addrSt1 [p.wpSet]) :=
  fun past rest => bracket_completes hp (writeInt_completes hp (waveByte mode r) (s.packingWave mode r)) past rest

theorem writeWave_stops (hoff : p.reprotectOnFailure = false) : StopsAtFailure (writeWave p mode r) s 3 :=
  fun past k kind rest hk => bracket_stops hp hoff (writeInt_completes hp (waveByte mode r) (s.packingWave mode r))
    (writeRegister_stops (two_le_bufCap hp)) past k kind rest hk

theorem rereadInt_completes :
    Completes (rereadInt p) s (readCalls p.addrInt 1) () { s with pointer := p.addrInt + 1 } := by
  intro past rest
  rw [rereadInt, readRegister_completes p (addrInt_lt hp), Reply.andThen_done]

theorem rewriteWave_completes :
    ∃ t, Completes (rewriteWave p mode) s
        (readCalls p.addrInt 1 ++
          ([st1Call p p.wpClear, writeCall p.addrInt [waveByte mode (s.store.read p.addrInt)], st1Call p p.wpSet] ++
            readCalls p.addrInt 1)) () t ∧
      t.store = ((s.store.write p.addrSt1 p.wpClear).write p.addrInt (waveByte mode (s.store.read p.addrInt))).write
        p.addrSt1 p.wpSet :=
  ⟨_, (readRegister_completes p (addrInt_lt hp)).andThen ((writeWave_completes hp mode _ _).andThen (rereadInt_completes hp _)),
    rfl⟩

theorem rewriteWave_stops (hoff : p.reprotectOnFailure = false) : StopsAtFailure (rewriteWave p mode) s 7 := by
  change StopsAtFailure (rewriteWave p mode) s (2 + (3 + 2))
  exact StopsAtFailure.andThen (readRegister_completes p (addrInt_lt hp)) (readRegister_stops p p.addrInt s)
    (StopsAtFailure.andThen (writeWave_completes hp mode _ _) (writeWave_stops hp mode _ _ hoff) (rereadInt_stops p _))

/-- When the write of INT fails, the bracket ends with it, re-protected as configured. -/
theorem writeWave_of_failed_write (past : List BusCall) (kind : Nat) (rest : List Answer) :
    ∃ t u, writeWave p mode r (s.withTransport past (.success :: .failure kind :: rest)) = .failed .transportFailure t ∧
      Reprotected p u t ∧ u.calls.length = past.length + 2 := by
  obtain ⟨t, ht, hafter⟩ := bracket_of_failed_write hp (s := s.packingWave mode r) (past := past)
    (writeRegister_of_failure (r := p.addrInt) (v := waveByte mode r) (two_le_bufCap hp) rfl)
  exact ⟨t, _, ht, hafter, by simp⟩

theorem rewriteWave_of_failed_write (past : List BusCall) (kind : Nat) (rest : List Answer) :
    ∃ t u, rewriteWave p mode (s.withTransport past (List.replicate 3 .success ++ .failure kind :: rest)) =
        .failed .transportFailure t ∧ Reprotected p u t ∧ u.calls.length = past.length + 4 := by
  have hread := readRegister_completes p (s := s) (addrInt_lt hp) past (.success :: .failure kind :: rest)
  obtain ⟨t, u, ht, hafter, hcalls⟩ := writeWave_of_failed_write hp mode (s.store.read p.addrInt)
    { s with pointer := p.addrInt + 1 } (past ++ readCalls p.addrInt 1) kind rest
  refine ⟨t, u, ?_, hafter, by simp [hcalls, readCalls]⟩
  change (readRegister p p.addrInt
    (s.withTransport past (List.replicate 2 .success ++ .success :: .failure kind :: rest))).andThen _ = _
  rw [show 2 = (readCalls p.addrInt 1).length from rfl, hread, Reply.andThen_done, ht, Reply.andThen_failed]

end

theorem loNibble_eq_of_le {m : Byte} (h : m.toNat ≤ 15) : (loNibble m).toNat = m.toNat := by
  have hnibbles := toNat_eq_nibbles m
  omega

/-- Settles O45: the mode fits the nibble, INT and ST1 are different registers, and the calls are those of the run. -/
theorem setOutputWaveReplacesWaveField : Obligations.SetOutputWaveReplacesWaveField := by
  intro p m s hp hready hm hs
  obtain ⟨t, ht, hstore⟩ := rewriteWave_completes hp m ((s.presentScalar .chkwave m s.f).setOk true)
  obtain ⟨rest, hrun⟩ := ht.run (n := 7) hs (Nat.le_refl 7)
  have hne := addrSt1_ne_addrInt hp
  refine ⟨_, waveByte m (s.store.read p.addrInt), (setOutputWave_of_valid hready (validWave_iff.2 hm) p).trans hrun,
    ?lo, ?hi, ?int, ?st1, fun r hr => ?frame, rfl⟩
  case lo => rw [waveByte, loNibble_ofNibbles, loNibble_eq_of_le hm]
  case hi => rw [waveByte, hiNibble_ofNibbles]
  case int => simp [hstore, Memory.read_write, hne.symm]
  case st1 => simp [hstore, Memory.read_write]
  case frame =>
    obtain ⟨hint, hst1⟩ := not_or.1 hr
    simp [hstore, Memory.read_write, hint, hst1]

/-! ## Failing calls (60_exceptions.md R109, R114 to R117) -/

/-- Settles O49: each operation is a run that stops at its first failing call, and its calls are counted. -/
theorem firstFailingCallEndsOperation : Obligations.FirstFailingCallEndsOperation := by
  refine fun p s k hp hoff hready hs => ⟨fun hk => ?get, fun m hm hk => ?wave, fun x hx hk => ?set⟩
  case get => exact (getDateTime_stops p hready).run hk hs
  case wave =>
    rw [setOutputWave_of_valid hready (validWave_iff.2 hm)]
    exact (rewriteWave_stops hp m _ hoff).run hk hs
  case set =>
    rw [← length_timeCalls hp x] at hk
    rw [setDateTime_of_valid hready hx]
    exact (writeTime_stops hp hoff x (s.encoding x)).run hk hs

/-- What SetDateTime leaves when chunk `j` of its burst fails: the burst's failure `u`, re-protected as configured. -/
theorem setDateTime_of_failed_chunk {p : Params} {x : Fields} {s : State} {j kind : Nat} {rest : List Answer} (hp : p.wf)
    (hready : s.ready = true) (hx : validDateTime x = true) (hj : j * (p.bufCap - 1) < 7)
    (hs : s.answers = List.replicate (1 + j) .success ++ .failure kind :: rest) :
    ∃ t u, setDateTime p x s = .failed .transportFailure t ∧ Reprotected p u t ∧ u.calls.length = s.calls.length + j + 2 ∧
      u.answers = rest ∧ u.store.read p.addrSt1 = p.wpClear := by
  have hrun := writableRun_time hp x (s.encoding x)
  obtain ⟨q, cs, hcs, hburst⟩ := burstWrite_of_failure (two_le_bufCap hp) hrun (by rwa [length_toList]) kind
    (s.calls ++ [st1Call p p.wpClear]) rest
  obtain ⟨t, ht, hafter⟩ := bracket_of_failed_write hp hburst
  have hstart : s.encoding x =
      (s.encoding x).withTransport s.calls (.success :: (List.replicate j .success ++ .failure kind :: rest)) := by
    rw [← List.cons_append, ← List.replicate_succ, Nat.add_comm j 1, ← hs]
    rfl
  refine ⟨t, _, ?_, hafter, ?_, rfl, ?_⟩
  · rw [setDateTime_of_valid hready hx, hstart]
    exact ht
  · simp only [State.withTransport_calls, List.length_append, List.length_singleton, hcs]
    omega
  · obtain ⟨-, hclear, hst1⟩ := hrun
    have htake := List.length_take_le' (j * (p.bufCap - 1)) (packFields x).toList
    exact (Memory.read_writeBytes_of_outside _ (by omega)).trans hclear

/-- Settles O55: the failing chunk leaves ST1 as the clear-protect write left it; what follows is the re-protection. -/
theorem reprotectAfterAnyFailedChunk : Obligations.ReprotectAfterAnyFailedChunk := by
  intro p x s j kind rest hp hready hx hj hs
  obtain ⟨t, u, ht, hafter, hcalls, hanswers, hclear⟩ := setDateTime_of_failed_chunk hp hready hx hj hs
  refine ⟨t, ht, fun hoff => ?off, fun hon => ⟨?count, hafter.getLast?_calls_of_on hon, fun rest' hrest => ?success,
    fun kind' rest' hrest => ?failure⟩⟩
  case off =>
    obtain rfl := hafter.off hoff
    exact ⟨hcalls, hclear⟩
  case count => rw [hafter.length_calls_of_on hon, hcalls]
  case success => rw [hafter.success hon rest' (hanswers.trans hrest), Memory.read_write, if_pos rfl]
  case failure => rw [hafter.failure hon kind' rest' (hanswers.trans hrest), hclear]

/-- What SetOutputWave leaves when its write of INT fails. -/
theorem setOutputWave_of_failed_write {p : Params} {m : Byte} {s : State} (hp : p.wf) (hready : s.ready = true)
    (hm : m.toNat ≤ 15) (hs : s.TransportFailsAfter 3) :
    ∃ t u, setOutputWave p m s = .failed .transportFailure t ∧ Reprotected p u t ∧ u.calls.length = s.calls.length + 4 := by
  obtain ⟨kind, rest, hrest⟩ := hs
  rw [setOutputWave_of_valid hready (validWave_iff.2 hm)]
  have hrun := rewriteWave_of_failed_write hp m ((s.presentScalar .chkwave m s.f).setOk true) s.calls kind rest
  rwa [← hrest] at hrun

/-- Settles O48: the first chunk of SetDateTime and the write of INT fail inside the bracket, after two and four calls. -/
theorem reprotectOnlyWhenConfigured : Obligations.ReprotectOnlyWhenConfigured := by
  refine fun p s hp hready => ⟨fun x hx hs => ?set, fun m hm hs => ?wave⟩
  case set =>
    obtain ⟨kind, rest, hrest⟩ := hs
    obtain ⟨t, u, ht, hafter, hcalls, -⟩ := setDateTime_of_failed_chunk (j := 0) hp hready hx (by omega) hrest
    exact ⟨t, ht, fun hoff => hafter.off hoff ▸ hcalls,
      fun hon => ⟨by rw [hafter.length_calls_of_on hon, hcalls], hafter.getLast?_calls_of_on hon⟩⟩
  case wave =>
    obtain ⟨t, u, ht, hafter, hcalls⟩ := setOutputWave_of_failed_write hp hready hm hs
    exact ⟨t, ht, fun hoff => hafter.off hoff ▸ hcalls,
      fun hon => ⟨by rw [hafter.length_calls_of_on hon, hcalls], hafter.getLast?_calls_of_on hon⟩⟩

end Sys2Proof.Machine
end

section
/-! PROOFS. Family other, the environment's operations whatever the transport answers: what they keep, how they can fail, and
that they are never refused (60_exceptions.md R99, R105, 70_reset_and_hazards.md R130). -/
namespace Sys2Proof.Machine

/-! ## Pre- and postconditions of a reply -/

/-- A reply that is done satisfies `P`, one that failed satisfies `F`, and one is refused only if `R`. -/
def Reply.Ends {α : Type} (R : Prop) (P : α → State → Prop) (F : ErrorKind → State → Prop) : Reply α → Prop
  | .done v s => P v s
  | .failed e s => F e s
  | .refused _ => R

section
variable {α β : Type} {R R' : Prop} {P P' : α → State → Prop} {Q : β → State → Prop}
  {F F' : ErrorKind → State → Prop}

theorem Reply.Ends.andThen {x : Reply α} {k : α → State → Reply β} (hx : x.Ends R P F)
    (hk : ∀ v t, P v t → (k v t).Ends R Q F) : (x.andThen k).Ends R Q F := by
  cases x with
  | done v s => exact hk v s hx
  | failed e s => exact hx
  | refused r => exact hx

theorem Reply.Ends.mono {x : Reply α} (h : x.Ends R P F) (hR : R → R') (hP : ∀ v t, P v t → P' v t)
    (hF : ∀ e t, F e t → F' e t) : x.Ends R' P' F' := by
  cases x with
  | done v s => exact hP v s h
  | failed e s => exact hF e s h
  | refused r => exact hR h

/-- What holds of the state left on success and on failure. -/
theorem Reply.Ends.of_state? {I : State → Prop} {x : Reply α} {t : State} (h : x.Ends R (fun _ => I) (fun _ => I))
    (ht : x.state? = some t) : I t := by
  cases x with
  | done v s => exact Option.some.inj ht ▸ h
  | failed e s => exact Option.some.inj ht ▸ h
  | refused r => cases ht

theorem Reply.Ends.of_failed {x : Reply α} {e : ErrorKind} {t : State} (h : x.Ends R P F) (ht : x = .failed e t) : F e t := by
  subst ht
  exact h

theorem Reply.Ends.ne_refused {x : Reply α} (h : x.Ends False P F) (r : Refusal) : x ≠ .refused r := by
  rintro rfl
  exact h

end

/-- The postcondition of a failure inside the transport: its kind, and what is kept. -/
abbrev TransportFailed (I : State → Prop) (e : ErrorKind) (t : State) : Prop := e = .transportFailure ∧ I t

theorem callHook_ends {R : Prop} {P : Unit → State → Prop} {F : ErrorKind → State → Prop} {c : BusCall} {s : State}
    (hP : ∀ rest, P () (s.withTransport (s.calls ++ [c]) rest))
    (hF : ∀ rest, F .transportFailure (s.withTransport (s.calls ++ [c]) rest)) : (callHook c s).Ends R P F := by
  obtain ⟨rest, ⟨hcall, -⟩ | ⟨hcall, -⟩⟩ := callHook_cases c s <;> rw [hcall]
  · exact hP rest
  · exact hF rest

/-! ## What register reads keep (60_exceptions.md R107) -/

/-- `I` does not look at what a register read changes: its two calls and the register pointer. -/
structure KeptByReads (I : State → Prop) : Prop where
  pointerSend : ∀ s b rest, I s → I (s.withTransport (s.calls ++ [.send (slaveAddress false) [b]]) rest)
  receive : ∀ s n rest, I s → I (s.withTransport (s.calls ++ [.receive (slaveAddress true) n]) rest)
  pointer : ∀ s q, I s → I { s with pointer := q }

section
variable {I : State → Prop} (hI : KeptByReads I) {p : Params} {s : State} (hs : I s)
include hI hs

theorem readRegisters_ends (r n : Nat) :
    (readRegisters p r n s).Ends (mapSize < r + n) (fun bs t => bs.length = n ∧ I t) (TransportFailed I) := by
  have hsend : (send p [regByte r] s).Ends (mapSize < r + n) (fun _ t => t.pointer = (regByte r).toNat ∧ I t)
      (TransportFailed I) := by
    rw [send_eq]
    refine (callHook_ends (P := fun _ => I) (fun rest => ?_) fun rest => ?_).andThen fun _ t ht => ?_
    · exact hI.pointerSend s _ rest hs
    · exact ⟨rfl, hI.pointerSend s _ rest hs⟩
    · exact ⟨rfl, hI.pointer t _ ht⟩
  refine hsend.andThen fun _ t ⟨hpointer, ht⟩ => ?_
  rw [receive_eq]
  refine (callHook_ends (P := fun _ u => u.pointer = t.pointer ∧ I u) (fun rest => ?_) fun rest => ?_).andThen
    fun _ u ⟨hpointer', hu⟩ => ?_
  · exact ⟨rfl, hI.receive t n rest ht⟩
  · exact ⟨rfl, hI.receive t n rest ht⟩
  · have hle : (regByte r).toNat ≤ r := by simpa [regByte] using Nat.mod_le r 256
    unfold fetch
    split
    case isTrue hpast => exact show mapSize < r + n by omega
    case isFalse => exact ⟨Memory.length_readBytes _ _ n, hI.pointer u _ hu⟩

theorem readRegister_ends (r : Nat) :
    (readRegister p r s).Ends (mapSize < r + 1) (fun _ => I) (TransportFailed I) := by
  refine (readRegisters_ends hI hs r 1).andThen fun bs t ⟨hlength, ht⟩ => ?_
  obtain ⟨b, rfl⟩ := List.length_eq_one_iff.1 hlength
  exact ht

theorem getDateTime_ends
    (hdecode : ∀ t b, I t → I ((t.presentVector .updt b).setVy (unpackFields b).toPort)) :
    (getDateTime p s).Ends (s.ready = false ∨ mapSize < p.addrSec + 7) (fun _ => I) (TransportFailed I) := by
  cases hready : s.ready with
  | false =>
    rw [getDateTime_of_not_ready hready]
    exact .inl rfl
  | true =>
    rw [getDateTime_of_ready hready]
    refine ((readRegisters_ends hI hs p.addrSec 7).mono .inr (fun _ _ h => h) fun _ _ h => h).andThen
      fun bs t ⟨hlength, ht⟩ => ?_
    match bs, hlength with
    | [b0, b1, b2, b3, b4, b5, b6], _ => exact hdecode t ⟨b0, b1, b2, b3, b4, b5, b6⟩ ht

theorem rewriteWave_ends {R : Prop} {mode : Byte} (hR : mapSize < p.addrInt + 1 → R)
    (hwrite : ∀ r t, I t → (writeWave p mode r t).Ends R (fun _ => I) (TransportFailed I)) :
    (rewriteWave p mode s).Ends R (fun _ => I) (TransportFailed I) := by
  have hread {t : State} (ht : I t) : (readRegister p p.addrInt t).Ends R (fun _ => I) (TransportFailed I) :=
    (readRegister_ends hI ht p.addrInt).mono hR (fun _ _ h => h) fun _ _ h => h
  exact (hread hs).andThen fun r t ht => (hwrite r t ht).andThen fun _ u hu => (hread hu).andThen fun _ _ hv => hv

end

/-! ## Burst writes and the bracket, from their parts (60_exceptions.md R108 to R110) -/

/-- What every chunk of a burst keeps, the burst keeps: a chunk starts at or after the burst's start and ends inside it. -/
theorem sendChunks_ends {R : Prop} {I : State → Prop} {F : ErrorKind → State → Prop} {p : Params} {first last : Nat}
    {cs : List (List Byte)}
    (hsend : ∀ c ∈ cs, ∀ r t, first ≤ r → r + c.length ≤ last → I t →
      (send p (regByte r :: c) t).Ends R (fun _ => I) F)
    {r : Nat} {s : State} (hr : first ≤ r) (hlast : r + cs.flatten.length ≤ last) (hs : I s) :
    (sendChunks p r cs s).Ends R (fun _ => I) F := by
  induction cs generalizing r s with
  | nil => exact hs
  | cons c cs ih =>
    obtain ⟨hc, hcs⟩ := List.forall_mem_cons.1 hsend
    rw [List.flatten_cons, List.length_append] at hlast
    exact (hc r s hr (by omega) hs).andThen fun _ t ht => ih hcs (by omega) (by omega) ht

/-- Re-protection keeps what a failed data write left, if the set-protect write does. -/
theorem reprotect_ends {R : Prop} {J : State → Prop} {F : ErrorKind → State → Prop} {p : Params} {x : Reply Unit}
    (hx : x.Ends R (fun _ => J) F)
    (hafterFailure : ∀ e t, F e t → (setProtect p t).Ends R (fun _ => F e) (fun _ => F e)) :
    (reprotect p x).Ends R (fun _ => J) F := by
  cases x with
  | done v u => exact hx
  | refused r => exact hx
  | failed e u =>
    have hset := hafterFailure e u hx
    by_cases hon : p.reprotectOnFailure = true
    · simp only [reprotect, hon, if_true]
      generalize setProtect p u = y at hset
      cases y <;> exact hset
    · rw [reprotect_failed_of_off (Bool.eq_false_iff.2 hon)]
      exact hx

/-- The bracket from its three writes; `J` holds while it is open. -/
theorem bracket_ends {R : Prop} {I J : State → Prop} {F : ErrorKind → State → Prop} {p : Params}
    {write : State → Reply Unit} {s : State} (hclear : (clearProtect p s).Ends R (fun _ => J) F)
    (hwrite : ∀ t, J t → (write t).Ends R (fun _ => J) F)
    (hafterFailure : ∀ e t, F e t → (setProtect p t).Ends R (fun _ => F e) (fun _ => F e))
    (hset : ∀ t, J t → (setProtect p t).Ends R (fun _ => I) F) : (bracket p write s).Ends R (fun _ => I) F :=
  hclear.andThen fun _ t ht => (reprotect_ends (hwrite t ht) hafterFailure).andThen fun _ u hu => hset u hu

/-! ## What every bus operation keeps -/

/-- `I` looks at the register store only as far as its canonical form, and not at all at the calls and the pointer. -/
structure KeptByBus (I : State → Prop) : Prop where
  call : ∀ s c rest, I s → I (s.withTransport (s.calls ++ [c]) rest)
  pointer : ∀ s q, I s → I { s with pointer := q }
  write : ∀ s r data, r + data.length ≤ mapSize → I s → I (s.written r data)

theorem KeptByBus.keptByReads {I : State → Prop} (hI : KeptByBus I) : KeptByReads I :=
  ⟨fun s _ => hI.call s _, fun s _ => hI.call s _, hI.pointer⟩

section
variable {I : State → Prop} (hI : KeptByBus I) {p : Params} {s : State} (hs : I s)
include hI hs

theorem send_ends (bytes : List Byte) : (send p bytes s).Ends True (fun _ => I) (TransportFailed I) := by
  rw [send_eq]
  refine (callHook_ends (P := fun _ => I) (hI.call s _ · hs) fun rest => ⟨rfl, hI.call s _ rest hs⟩).andThen fun _ t ht => ?_
  match bytes with
  | [] => trivial
  | [r] => exact hI.pointer t _ ht
  | r :: b :: bs =>
    rw [deliver_data p r (List.cons_ne_nil b bs)]
    cases hwrite : peripheralWrite p r.toNat (b :: bs) t with
    | done v u =>
      obtain ⟨hmap, rfl⟩ := peripheralWrite_done hwrite
      exact hI.write t _ _ hmap ht
    | failed e u => exact absurd hwrite peripheralWrite_not_failed
    | refused r => trivial

theorem burstWrite_ends (r : Nat) (data : List Byte) : (burstWrite p r data s).Ends True (fun _ => I) (TransportFailed I) :=
  sendChunks_ends (fun c _ r _ _ _ ht => send_ends hI ht (regByte r :: c)) (Nat.le_refl r) (Nat.le_refl _) hs

theorem bracketedWrite_ends (r : Nat) (data : List Byte) :
    (bracket p (burstWrite p r data) s).Ends True (fun _ => I) (TransportFailed I) := by
  have hst1 (v : Byte) {t : State} (ht : I t) := burstWrite_ends hI ht (p := p) p.addrSt1 [v]
  refine bracket_ends (hst1 p.wpClear hs) (fun t ht => burstWrite_ends hI ht r data) (fun e t ⟨he, ht⟩ => ?_)
    fun t ht => hst1 p.wpSet ht
  exact (hst1 p.wpSet ht).mono id (fun _ _ hu => ⟨he, hu⟩) fun _ _ ⟨_, hu⟩ => ⟨he, hu⟩

end

/-! ## InvalidParameter (60_exceptions.md R99) -/

theorem keptByBus_true : KeptByBus fun _ => True :=
  ⟨fun _ _ _ _ => trivial, fun _ _ _ => trivial, fun _ _ _ _ _ => trivial⟩

/-- Behind the check every failure is the transport's. -/
theorem setDateTime_eq_invalidParameter_iff {p : Params} {x : Fields} {s t : State} (hready : s.ready = true) :
    setDateTime p x s = .failed .invalidParameter t ↔
      validDateTime x = false ∧ t = (s.presentVector .chkdt x).setOk false := by
  cases hx : validDateTime x with
  | false => simp [setDateTime_of_invalid hready hx, eq_comm]
  | true =>
    simp only [setDateTime_of_valid hready hx, reduceCtorEq, false_and, iff_false]
    intro hfailed
    obtain ⟨he, -⟩ := (bracketedWrite_ends keptByBus_true trivial p.addrSec (packFields x).toList).of_failed hfailed
    cases he

theorem setOutputWave_eq_invalidParameter_iff {p : Params} {m : Byte} {s t : State} (hready : s.ready = true) :
    setOutputWave p m s = .failed .invalidParameter t ↔
      validWave m = false ∧ t = (s.presentScalar .chkwave m s.f).setOk false := by
  cases hm : validWave m with
  | false => simp [setOutputWave_of_invalid hready hm, eq_comm]
  | true =>
    simp only [setOutputWave_of_valid hready hm, reduceCtorEq, false_and, iff_false]
    intro hfailed
    obtain ⟨he, -⟩ := (rewriteWave_ends keptByBus_true.keptByReads trivial (fun _ => trivial)
      fun r t _ => bracketedWrite_ends keptByBus_true trivial p.addrInt [waveByte m r]).of_failed hfailed
    cases he

/-- Settles O39: the check fails before any call, and every later failure is the transport's. -/
theorem invalidParameterExactlyOnFailedCheck : Obligations.InvalidParameterExactlyOnFailedCheck := by
  refine fun p s hready => ⟨fun x => ?set, fun m => ?wave⟩
  case set =>
    simp only [setDateTime_eq_invalidParameter_iff hready, step_chkdt_iff]
    exact ⟨by simp, by rintro t ⟨-, rfl⟩; exact ⟨rfl, rfl, rfl, rfl⟩⟩
  case wave =>
    simp only [setOutputWave_eq_invalidParameter_iff hready, step_chkwave_iff]
    exact ⟨by simp, by rintro t ⟨-, rfl⟩; exact ⟨rfl, rfl, rfl, rfl⟩⟩

/-! ## The invariant (10_state.md section 2) -/

theorem keptByBus_inv : KeptByBus State.Inv where
  call := fun _ _ _ h => h
  pointer := fun _ _ h => h
  write := fun _ _ _ hmap ⟨hstore, hout⟩ => ⟨Memory.wf_writeBytes hstore hmap, hout⟩

theorem inv_encoding {s : State} (h : s.store.wf) (x : Fields) : (s.encoding x).Inv :=
  inv_of_step (s := ((s.presentVector .chkdt x).setOk true).presentVector .pkdt x) h
    (answersVy_pkdt_iff (s := (s.presentVector .chkdt x).setOk true).2 rfl)

theorem inv_decoding {s : State} (h : s.store.wf) (b : Fields) :
    ((s.presentVector .updt b).setVy (unpackFields b).toPort).Inv :=
  inv_of_step (s := s.presentVector .updt b) h (answersVy_updt_iff (s := s).2 rfl)

theorem inv_packingWave {s : State} (h : s.store.wf) (mode r : Byte) : (s.packingWave mode r).Inv :=
  inv_of_step (s := s.presentScalar .pkwave r (loNibble mode)) h (answersY_pkwave_iff (s := s).2 rfl)

theorem inv_checkedDateTime {s : State} (h : s.store.wf) {x : Fields} {v : Bool} (hx : validDateTime x = v) :
    ((s.presentVector .chkdt x).setOk v).Inv :=
  inv_of_step (s := s.presentVector .chkdt x) h (step_chkdt_iff.2 hx)

theorem inv_checkedWave {s : State} (h : s.store.wf) {m : Byte} {f : Nibble} {v : Bool} (hm : validWave m = v) :
    ((s.presentScalar .chkwave m f).setOk v).Inv :=
  inv_of_step (s := s.presentScalar .chkwave m f) h (step_chkwave_iff.2 hm)

section
variable {s : State} (h : s.Inv) (p : Params)
include h

theorem inv_engineInit : (engineInit s).Ends True (fun _ => State.Inv) (fun _ => State.Inv) := by
  unfold engineInit
  split
  · split
    · exact Reply.Ends.andThen (P := fun _ => State.Inv) (callHook_ends (fun _ => h) fun _ => h) fun _ _ ht => ht
    · exact h
  · exact h

theorem inv_engineDeInit : (engineDeInit s).Ends True (fun _ => State.Inv) (fun _ => State.Inv) := by
  unfold engineDeInit
  split
  · exact callHook_ends (fun _ => h) fun _ => h
  · exact h

theorem inv_setDateTime (x : Fields) : (setDateTime p x s).Ends True (fun _ => State.Inv) (fun _ => State.Inv) := by
  cases hready : s.ready with
  | false => rw [setDateTime_of_not_ready hready]; trivial
  | true =>
    cases hx : validDateTime x with
    | false =>
      rw [setDateTime_of_invalid hready hx]
      exact inv_checkedDateTime h.1 hx
    | true =>
      rw [setDateTime_of_valid hready hx]
      exact (bracketedWrite_ends keptByBus_inv (inv_encoding h.1 x) _ _).mono id (fun _ _ ht => ht) fun _ _ ⟨_, ht⟩ => ht

theorem inv_getDateTime : (getDateTime p s).Ends True (fun _ => State.Inv) (fun _ => State.Inv) :=
  (getDateTime_ends keptByBus_inv.keptByReads h fun _ b ht => inv_decoding ht.1 b).mono (fun _ => trivial) (fun _ _ ht => ht)
    fun _ _ ⟨_, ht⟩ => ht

theorem inv_setOutputWave (m : Byte) : (setOutputWave p m s).Ends True (fun _ => State.Inv) (fun _ => State.Inv) := by
  cases hready : s.ready with
  | false => rw [setOutputWave_of_not_ready hready]; trivial
  | true =>
    cases hm : validWave m with
    | false =>
      rw [setOutputWave_of_invalid hready hm]
      exact inv_checkedWave h.1 hm
    | true =>
      rw [setOutputWave_of_valid hready hm]
      refine (rewriteWave_ends keptByBus_inv.keptByReads (inv_checkedWave h.1 hm) (fun _ => trivial) fun r t ht => ?_).mono id
        (fun _ _ ht => ht) fun _ _ ⟨_, ht⟩ => ht
      exact bracketedWrite_ends keptByBus_inv (inv_packingWave ht.1 m r) p.addrInt [waveByte m r]

end

/-- Settles O52: every bus operation keeps the store canonical and the ports as they are, and every transaction of the block
settles the outputs. -/
theorem engineKeepsInvariant : Obligations.EngineKeepsInvariant := by
  rintro p s t hinv (ht | ht | ⟨x, ht⟩ | ht | ⟨m, ht⟩)
  · exact (inv_engineInit hinv).of_state? ht
  · exact (inv_engineDeInit hinv).of_state? ht
  · exact (inv_setDateTime hinv p x).of_state? ht
  · exact (inv_getDateTime hinv p).of_state? ht
  · exact (inv_setOutputWave hinv p m).of_state? ht

/-! ## GetDateTime leaves the registers alone (60_exceptions.md R105) -/

theorem keptByReads_store (s : State) : KeptByReads fun t => t.store = s.store ∧ t.handler = s.handler :=
  ⟨fun _ _ _ h => h, fun _ _ _ h => h, fun _ _ h => h⟩

/-- Settles O43: a read changes the pointer and the calls only; its two calls are the ones that can fail. -/
theorem getDateTimeLeavesStoreUntouched : Obligations.GetDateTimeLeavesStoreUntouched := by
  intro p s
  have hends := getDateTime_ends (p := p) (keptByReads_store s) ⟨rfl, rfl⟩ fun _ _ ht => ht
  refine ⟨fun t ht => ?kept, fun e t ht => ?kind, fun n hready hn hs => ?stops⟩
  case kept => exact (hends.mono id (fun _ _ h => h) fun _ _ ⟨_, h⟩ => h).of_state? ht
  case kind => exact (hends.of_failed ht).1
  case stops =>
    obtain ⟨t, ht, -⟩ := (getDateTime_stops p hready).run hn hs
    exact ⟨t, ht⟩

/-! ## The bracket as the calls show it (70_reset_and_hazards.md R130) -/

/-- The calls issued since `s` are bracketed, and they leave the bracket open or not, as `unlocked` says: whatever calls may
follow from there may follow them. -/
def BracketKept (p : Params) (s : State) (unlocked : Bool) (t : State) : Prop :=
  ∃ new, t.calls = s.calls ++ new ∧ ∀ later, bracketed p unlocked later = true → bracketed p false (new ++ later) = true

/-- The same, open or not. -/
def Bracketed (p : Params) (s t : State) : Prop := ∃ unlocked, BracketKept p s unlocked t

theorem BracketKept.refl (p : Params) {s t : State} (h : t.calls = s.calls) : BracketKept p s false t :=
  ⟨[], by simp [h], fun _ hlater => hlater⟩

theorem BracketKept.call {p : Params} {s t : State} {unlocked unlocked' : Bool} {c : BusCall} (h : BracketKept p s unlocked t)
    (hc : ∀ later, bracketed p unlocked' later = true → bracketed p unlocked (c :: later) = true) (rest : List Answer) :
    BracketKept p s unlocked' (t.withTransport (t.calls ++ [c]) rest) := by
  obtain ⟨new, hnew, hfollow⟩ := h
  refine ⟨new ++ [c], by simp [hnew], fun later hlater => ?_⟩
  rw [List.append_assoc]
  exact hfollow _ (hc later hlater)

theorem keptByReads_bracketed (p : Params) (s : State) : KeptByReads (Bracketed p s) where
  pointerSend := fun _ _ rest ⟨_, h⟩ => ⟨_, h.call (fun _ hlater => hlater) rest⟩
  receive := fun _ _ rest ⟨_, h⟩ => ⟨_, h.call (fun _ hlater => hlater) rest⟩
  pointer := fun _ _ h => h

theorem bracketed_st1Call (p : Params) (unlocked : Bool) (v : Byte) (later : List BusCall) :
    bracketed p unlocked (st1Call p v :: later) = bracketed p (decide (v = p.wpClear)) later := by
  simp [st1Call, writeCall, bracketed]

theorem regByte_ne {r r' : Nat} (hr : r < mapSize) (hr' : r' < mapSize) (hne : r ≠ r') : regByte r ≠ regByte r' := by
  intro h
  rw [← toNat_regByte hr, ← toNat_regByte hr', h] at hne
  exact hne rfl

theorem bracketed_writeCall {p : Params} (hp : p.wf) {r : Nat} {data : List Byte} (hdata : data ≠ []) (hr : r < mapSize)
    (hne : r ≠ p.addrSt1) (later : List BusCall) : bracketed p true (writeCall r data :: later) = bracketed p true later := by
  obtain ⟨b, bs, rfl⟩ := List.exists_cons_of_ne_nil hdata
  simp [writeCall, bracketed, regByte_ne hr (addrSt1_lt hp) hne]

/-- The bracket is open: in ST1, and as the calls since `s` show it. -/
def BracketOpen (p : Params) (s t : State) : Prop := t.unprotected p ∧ BracketKept p s true t

section
variable {p : Params} (hp : p.wf) {s t : State}
include hp

/-- A write of ST1 is never refused; afterwards the bracket is open or closed, as the Byte says. -/
theorem writeSt1_safe (v : Byte) (ht : Bracketed p s t) :
    (writeRegister p p.addrSt1 v t).Ends False
      (fun _ u => u.store.read p.addrSt1 = v ∧ BracketKept p s (decide (v = p.wpClear)) u) (TransportFailed (Bracketed p s)) := by
  obtain ⟨unlocked, hkept⟩ := ht
  have hafter (rest : List Answer) := hkept.call (c := st1Call p v)
    (fun later hlater => (bracketed_st1Call p _ v later).trans hlater) rest
  rw [writeRegister_eq p _ v t (two_le_bufCap hp), send_eq]
  refine (callHook_ends (P := fun _ => BracketKept p s (decide (v = p.wpClear))) hafter
    fun rest => ⟨rfl, _, hafter rest⟩).andThen fun _ u hu => ?_
  rw [deliver_data p _ (List.cons_ne_nil v []), toNat_regByte (addrSt1_lt hp),
    peripheralWrite_eq (addrSt1_lt hp) (.inr ⟨rfl, rfl⟩)]
  exact ⟨by simp [Memory.writeBytes, Memory.read_write], hu⟩

/-- A chunk that stays inside the map and off ST1 is never refused inside the bracket, and leaves it open. -/
theorem sendData_safe {r : Nat} {data : List Byte} (hdata : data ≠ []) (hmap : r + data.length ≤ mapSize)
    (hst1 : p.addrSt1 < r ∨ r + data.length ≤ p.addrSt1) (ht : BracketOpen p s t) :
    (send p (regByte r :: data) t).Ends False (fun _ => BracketOpen p s) (TransportFailed (Bracketed p s)) := by
  obtain ⟨hu, hkept⟩ := ht
  have hpos := List.length_pos_iff_ne_nil.2 hdata
  have hafter (rest : List Answer) := hkept.call (c := writeCall r data)
    (fun later hlater => (bracketed_writeCall hp hdata (by omega) (by omega) later).trans hlater) rest
  rw [send_eq]
  refine (callHook_ends (P := fun _ => BracketOpen p s) (fun rest => ⟨hu, hafter rest⟩)
    fun rest => ⟨rfl, _, hafter rest⟩).andThen fun _ u ⟨hu, hkept⟩ => ?_
  rw [deliver_data p _ hdata, toNat_regByte (by omega), peripheralWrite_eq hmap (.inl hu)]
  exact ⟨(Memory.read_writeBytes_of_outside u.store hst1).trans hu, hkept⟩

theorem burstWrite_safe {r : Nat} {data : List Byte} (hmap : r + data.length ≤ mapSize)
    (hst1 : p.addrSt1 < r ∨ r + data.length ≤ p.addrSt1) (ht : BracketOpen p s t) :
    (burstWrite p r data t).Ends False (fun _ => BracketOpen p s) (TransportFailed (Bracketed p s)) := by
  have hcap := two_le_bufCap hp
  have hd : 0 < p.bufCap - 1 := by omega
  refine sendChunks_ends (first := r) (last := r + data.length) (fun c hc r' u hfirst hlast hu => ?_) (Nat.le_refl r)
    (by rw [flatten_chunks hd (Nat.le_refl _)]) ht
  exact sendData_safe hp (ne_nil_of_mem_chunks hd (Nat.le_refl _) hc) (by omega) (by omega) hu

/-- The bracket around a run off ST1 is never refused, and its calls are bracketed. -/
theorem bracketedWrite_safe {r : Nat} {data : List Byte} (hmap : r + data.length ≤ mapSize)
    (hst1 : p.addrSt1 < r ∨ r + data.length ≤ p.addrSt1) (ht : Bracketed p s t) :
    (bracket p (burstWrite p r data) t).Ends False (fun _ => Bracketed p s) (TransportFailed (Bracketed p s)) := by
  have hset {u : State} (hu : Bracketed p s u) := writeSt1_safe hp p.wpSet hu
  refine bracket_ends (J := BracketOpen p s) ?clear (fun u hu => burstWrite_safe hp hmap hst1 hu) (fun e u ⟨he, hu⟩ => ?failed)
    fun u ⟨_, hkept⟩ => ?set
  case clear =>
    refine (writeSt1_safe hp p.wpClear ht).mono id (fun _ u ⟨hread, hkept⟩ => ⟨hread, ?_⟩) fun _ _ h => h
    rwa [decide_eq_true rfl] at hkept
  case failed => exact (hset hu).mono id (fun _ _ ⟨_, hkept⟩ => ⟨he, _, hkept⟩) fun _ _ ⟨_, hkept⟩ => ⟨he, hkept⟩
  case set => exact (hset ⟨_, hkept⟩).mono id (fun _ _ ⟨_, hkept⟩ => ⟨_, hkept⟩) fun _ _ h => h

theorem setDateTime_safe (hready : s.ready = true) (x : Fields) :
    (setDateTime p x s).Ends False (fun _ => Bracketed p s) (fun _ => Bracketed p s) := by
  cases hx : validDateTime x with
  | false =>
    rw [setDateTime_of_invalid hready hx]
    exact ⟨_, .refl p rfl⟩
  | true =>
    have hrun := writableRun_time hp x s
    rw [setDateTime_of_valid hready hx]
    exact (bracketedWrite_safe hp hrun.inMap hrun.missesSt1 ⟨_, .refl p (State.encoding_calls s x)⟩).mono id (fun _ _ h => h)
      fun _ _ ⟨_, h⟩ => h

theorem setOutputWave_safe (hready : s.ready = true) (m : Byte) :
    (setOutputWave p m s).Ends False (fun _ => Bracketed p s) (fun _ => Bracketed p s) := by
  have hint := addrInt_lt hp
  have hne := addrSt1_ne_addrInt hp
  cases hm : validWave m with
  | false =>
    rw [setOutputWave_of_invalid hready hm]
    exact ⟨_, .refl p rfl⟩
  | true =>
    have hstart : Bracketed p s ((s.presentScalar .chkwave m s.f).setOk true) := ⟨_, .refl p rfl⟩
    rw [setOutputWave_of_valid hready hm]
    refine (rewriteWave_ends (keptByReads_bracketed p s) hstart (fun hpast => ?inMap) fun r t ht => ?write).mono id
      (fun _ _ h => h) fun _ _ ⟨_, h⟩ => h
    case inMap => omega
    case write =>
      exact bracketedWrite_safe hp (r := p.addrInt) (data := [waveByte m r]) hint
        (by simp only [List.length_singleton]; omega) ht

end

/-- Settles O50: every access of the three operations is a read inside the map, a write of ST1 alone, or a chunk inside the
bracket. -/
theorem engineIsNeverRefused : Obligations.EngineIsNeverRefused := by
  refine fun p s hp hready => ⟨fun x => (setDateTime_safe hp hready x).ne_refused, ?get,
    fun m => (setOutputWave_safe hp hready m).ne_refused⟩
  have hsec := addrSec_lt hp
  refine ((getDateTime_ends keptByBus_true.keptByReads trivial fun _ _ _ => trivial).mono (fun h => ?_) (fun _ _ h => h)
    fun _ _ h => h).ne_refused
  obtain hnot | hpast := h
  · exact absurd hready (by simp [hnot])
  · omega

/-- Settles O51: what the operations keep of their calls, with nothing left to follow. -/
theorem dataWritesAreBracketed : Obligations.DataWritesAreBracketed := by
  intro p s t hp hready ht
  have hbracketed : Bracketed p s t := by
    obtain ⟨x, ht⟩ | ⟨m, ht⟩ := ht
    · exact (setDateTime_safe hp hready x).of_state? ht
    · exact (setOutputWave_safe hp hready m).of_state? ht
  obtain ⟨unlocked, new, hnew, hfollow⟩ := hbracketed
  exact ⟨new, hnew, by simpa using hfollow [] rfl⟩

end Sys2Proof.Machine
end

section
/-! PROOFS. Family other, the kinds of transport failure: no operation of the environment tells them apart
(60_exceptions.md R111). -/
namespace Sys2Proof.Machine

/-! ## States and replies that differ in kinds of failure -/

/-- The states are the same but for the kinds inside the answers to come. -/
def State.Alike (s t : State) : Prop :=
  ∃ ys, t = s.withTransport s.calls ys ∧ s.answers.map Answer.isSuccess = ys.map Answer.isSuccess

/-- The replies end the same way, in states alike. -/
inductive Reply.Alike {α : Type} : Reply α → Reply α → Prop
  | done {v : α} {s t : State} (h : s.Alike t) : Alike (.done v s) (.done v t)
  | failed {e : ErrorKind} {s t : State} (h : s.Alike t) : Alike (.failed e s) (.failed e t)
  | refused (r : Refusal) : Alike (.refused r) (.refused r)

theorem Reply.Alike.withoutAnswers_eq {α : Type} {x y : Reply α} (h : x.Alike y) : x.withoutAnswers = y.withoutAnswers := by
  cases h with
  | done h => obtain ⟨ys, rfl, -⟩ := h; rfl
  | failed h => obtain ⟨ys, rfl, -⟩ := h; rfl
  | refused r => rfl

theorem Reply.Alike.andThen {α β : Type} {x y : Reply α} {f g : α → State → Reply β} (h : x.Alike y)
    (hfg : ∀ v s t, s.Alike t → (f v s).Alike (g v t)) : (x.andThen f).Alike (y.andThen g) := by
  cases h with
  | done h => exact hfg _ _ _ h
  | failed h => exact .failed h
  | refused r => exact .refused r

/-- `m` does not tell the kinds of failure apart: from states alike it gives replies alike. -/
def KindBlind {α : Type} (m : State → Reply α) : Prop := ∀ s t, s.Alike t → (m s).Alike (m t)

theorem KindBlind.andThen {α β : Type} {m : State → Reply α} {k : α → State → Reply β} (hm : KindBlind m)
    (hk : ∀ v, KindBlind (k v)) : KindBlind fun s => (m s).andThen k :=
  fun s t h => (hm s t h).andThen hk

/-- An update of the state that looks at neither the calls nor the answers. -/
def KeepsAlike (g : State → State) : Prop := ∀ s t, s.Alike t → (g s).Alike (g t)

theorem keepsAlike_of_commutes {g : State → State}
    (hg : ∀ s ys, g (s.withTransport s.calls ys) = (g s).withTransport (g s).calls ys)
    (hanswers : ∀ s, (g s).answers = s.answers) : KeepsAlike g := by
  rintro s _ ⟨ys, rfl, h⟩
  exact ⟨ys, hg s ys, by rw [hanswers, h]⟩

section
variable {α : Type}

theorem KindBlind.done {v : State → α} {g : State → State} (hv : ∀ s ys, v (s.withTransport s.calls ys) = v s)
    (hg : KeepsAlike g) : KindBlind fun s => .done (v s) (g s) := by
  intro s t h
  have hvt : v t = v s := by
    obtain ⟨ys, rfl, -⟩ := h
    exact hv s ys
  change (Reply.done (v s) (g s)).Alike (.done (v t) (g t))
  rw [hvt]
  exact .done (hg s t h)

theorem KindBlind.failed {e : ErrorKind} {g : State → State} (hg : KeepsAlike g) :
    KindBlind fun s => (.failed e (g s) : Reply α) := fun s t h => .failed (hg s t h)

theorem KindBlind.refused (r : Refusal) : KindBlind fun _ => (.refused r : Reply α) := fun _ _ _ => .refused r

theorem KindBlind.afterUpdate {m : State → Reply α} {g : State → State} (hm : KindBlind m) (hg : KeepsAlike g) :
    KindBlind fun s => m (g s) := fun s t h => hm _ _ (hg s t h)

/-- A branch on what the transport does not change. -/
theorem KindBlind.ite {c : State → Prop} [DecidablePred c] {m m' : State → Reply α}
    (hc : ∀ s ys, c (s.withTransport s.calls ys) ↔ c s) (hm : KindBlind m) (hm' : KindBlind m') :
    KindBlind fun s => if c s then m s else m' s := by
  intro s t h
  have hct : c t ↔ c s := by
    obtain ⟨ys, rfl, -⟩ := h
    exact hc s ys
  simp only [hct]
  split
  · exact hm s t h
  · exact hm' s t h

end

/-! ## The bus -/

theorem callHook_kindBlind (c : BusCall) : KindBlind (callHook c) := by
  rintro s _ ⟨ys, rfl, h⟩
  match hs : s.answers, ys, h with
  | [], [], h =>
    simp only [callHook, exchange, hs, State.withTransport_answers, State.withTransport_calls]
    cases Config.transportAnswer s.calls.length with
    | success => exact .done ⟨[], rfl, rfl⟩
    | failure kind => exact .failed ⟨[], rfl, rfl⟩
  | x :: xs, y :: ys, h =>
    obtain ⟨hxy, hrest⟩ := List.cons.inj h
    match x, y, hxy with
    | .success, .success, _ =>
      rw [callHook_of_success hs, callHook_of_success (State.withTransport_answers _ _ _)]
      exact .done ⟨ys, rfl, hrest⟩
    | .failure _, .failure _, _ =>
      rw [callHook_of_failure hs, callHook_of_failure (State.withTransport_answers _ _ _)]
      exact .failed ⟨ys, rfl, hrest⟩

theorem peripheralWrite_kindBlind (p : Params) (r : Nat) (data : List Byte) : KindBlind (peripheralWrite p r data) :=
  .ite (fun _ _ => Iff.rfl) (.refused .pastEndOfMap)
    (.ite (fun _ _ => Iff.rfl) (.done (fun _ _ => rfl) (keepsAlike_of_commutes (fun _ _ => rfl) fun _ => rfl))
      (.refused .outsideBracket))

theorem deliver_kindBlind (p : Params) (bytes : List Byte) : KindBlind (deliver p bytes) := by
  match bytes with
  | [] => exact .refused _
  | [r] => exact .done (fun _ _ => rfl) (keepsAlike_of_commutes (fun _ _ => rfl) fun _ => rfl)
  | r :: b :: bs => exact peripheralWrite_kindBlind p r.toNat (b :: bs)

theorem fetch_kindBlind (n : Nat) : KindBlind (fetch n) :=
  .ite (fun _ _ => Iff.rfl) (.refused .pastEndOfMap)
    (.done (fun _ _ => rfl) (keepsAlike_of_commutes (fun _ _ => rfl) fun _ => rfl))

theorem send_kindBlind (p : Params) (bytes : List Byte) : KindBlind (send p bytes) := by
  rw [funext (send_eq p bytes)]
  exact (callHook_kindBlind _).andThen fun _ => deliver_kindBlind p bytes

theorem receive_kindBlind (n : Nat) : KindBlind (receive n) := by
  rw [funext (receive_eq n)]
  exact (callHook_kindBlind _).andThen fun _ => fetch_kindBlind n

theorem readRegisters_kindBlind (p : Params) (r n : Nat) : KindBlind (readRegisters p r n) :=
  (send_kindBlind p [regByte r]).andThen fun _ => receive_kindBlind n

theorem readRegister_kindBlind (p : Params) (r : Nat) : KindBlind (readRegister p r) := by
  refine (readRegisters_kindBlind p r 1).andThen fun bs s t h => ?_
  match bs with
  | [b] => exact .done h
  | [] => exact .refused _
  | _ :: _ :: _ => exact .refused _

theorem sendChunks_kindBlind (p : Params) (r : Nat) (cs : List (List Byte)) : KindBlind (sendChunks p r cs) := by
  induction cs generalizing r with
  | nil => exact fun _ _ h => .done h
  | cons c cs ih => exact (send_kindBlind p (regByte r :: c)).andThen fun _ => ih (r + c.length)

theorem burstWrite_kindBlind (p : Params) (r : Nat) (data : List Byte) : KindBlind (burstWrite p r data) :=
  sendChunks_kindBlind p r _

theorem reprotect_alike (p : Params) {x y : Reply Unit} (h : x.Alike y) : (reprotect p x).Alike (reprotect p y) := by
  cases h with
  | done h => exact .done h
  | refused r => exact .refused r
  | @failed e s t h =>
    have hset : (setProtect p s).Alike (setProtect p t) := burstWrite_kindBlind p p.addrSt1 [p.wpSet] s t h
    simp only [reprotect]
    split
    · generalize setProtect p s = x, setProtect p t = y at hset
      cases hset with
      | done h' => exact .failed h'
      | failed h' => exact .failed h'
      | refused r => exact .refused r
    · exact .failed h

theorem bracketedWrite_kindBlind (p : Params) (r : Nat) (data : List Byte) : KindBlind (bracket p (burstWrite p r data)) :=
  (burstWrite_kindBlind p p.addrSt1 [p.wpClear]).andThen fun _ s t h =>
    (reprotect_alike p (burstWrite_kindBlind p r data s t h)).andThen fun _ => burstWrite_kindBlind p p.addrSt1 [p.wpSet]

/-! ## The five operations -/

theorem keepsAlike_ready (b : Bool) : KeepsAlike fun s => { s with ready := b } :=
  keepsAlike_of_commutes (fun _ _ => rfl) fun _ => rfl

theorem engineInit_kindBlind : KindBlind engineInit :=
  .ite (fun _ _ => Iff.rfl)
    (.ite (fun _ _ => Iff.rfl)
      (KindBlind.andThen ((callHook_kindBlind .init).afterUpdate (keepsAlike_ready false)) fun _ =>
        .done (fun _ _ => rfl) (keepsAlike_ready true))
      (.done (fun _ _ => rfl) (keepsAlike_ready true)))
    (.failed (keepsAlike_ready false))

theorem engineDeInit_kindBlind : KindBlind engineDeInit :=
  .ite (fun _ _ => Iff.rfl) ((callHook_kindBlind .deinit).afterUpdate (keepsAlike_ready false))
    (.done (fun _ _ => rfl) (keepsAlike_ready false))

theorem setDateTime_kindBlind (p : Params) (x : Fields) : KindBlind (setDateTime p x) := by
  rintro s _ ⟨ys, rfl, h⟩
  cases hready : s.ready with
  | false =>
    rw [setDateTime_of_not_ready hready, setDateTime_of_not_ready (by exact hready)]
    exact .refused _
  | true =>
    cases hx : validDateTime x with
    | false =>
      rw [setDateTime_of_invalid hready hx, setDateTime_of_invalid (by exact hready) hx]
      exact .failed ⟨ys, rfl, h⟩
    | true =>
      rw [setDateTime_of_valid hready hx, setDateTime_of_valid (by exact hready) hx]
      exact bracketedWrite_kindBlind p _ _ _ _ ⟨ys, rfl, h⟩

theorem decodeTime_kindBlind (bs : List Byte) : KindBlind (decodeTime bs) := by
  unfold decodeTime
  cases Fields.ofList bs with
  | none => exact .refused .blockSilent
  | some buf => exact .done (fun _ _ => rfl) (keepsAlike_of_commutes (fun _ _ => rfl) fun _ => rfl)

theorem getDateTime_kindBlind (p : Params) : KindBlind (getDateTime p) := by
  rintro s _ ⟨ys, rfl, h⟩
  cases hready : s.ready with
  | false =>
    rw [getDateTime_of_not_ready hready, getDateTime_of_not_ready (by exact hready)]
    exact .refused _
  | true =>
    rw [getDateTime_of_ready hready, getDateTime_of_ready (by exact hready)]
    exact (readRegisters_kindBlind p _ _ _ _ ⟨ys, rfl, h⟩).andThen decodeTime_kindBlind

theorem writeWave_kindBlind (p : Params) (mode r : Byte) : KindBlind (writeWave p mode r) := by
  rintro s _ ⟨ys, rfl, h⟩
  exact bracketedWrite_kindBlind p p.addrInt [waveByte mode r] _ _ ⟨ys, rfl, h⟩

theorem rewriteWave_kindBlind (p : Params) (mode : Byte) : KindBlind (rewriteWave p mode) :=
  (readRegister_kindBlind p p.addrInt).andThen fun r => (writeWave_kindBlind p mode r).andThen fun _ =>
    (readRegister_kindBlind p p.addrInt).andThen fun _ _ _ h => .done h

theorem setOutputWave_kindBlind (p : Params) (m : Byte) : KindBlind (setOutputWave p m) := by
  rintro s _ ⟨ys, rfl, h⟩
  cases hready : s.ready with
  | false =>
    rw [setOutputWave_of_not_ready hready, setOutputWave_of_not_ready (by exact hready)]
    exact .refused _
  | true =>
    cases hm : validWave m with
    | false =>
      rw [setOutputWave_of_invalid hready hm, setOutputWave_of_invalid (by exact hready) hm]
      exact .failed ⟨ys, rfl, h⟩
    | true =>
      rw [setOutputWave_of_valid hready hm, setOutputWave_of_valid (by exact hready) hm]
      exact rewriteWave_kindBlind p m _ _ ⟨ys, rfl, h⟩

/-- Settles O53: the two states are alike, and each of the five operations is built from runs that do not tell kinds
apart. -/
theorem failureKindsAreTreatedAlike : Obligations.FailureKindsAreTreatedAlike := by
  intro p s xs ys h
  have hstart : State.Alike { s with answers := xs } { s with answers := ys } := ⟨ys, rfl, h⟩
  have heq {α : Type} {m : State → Reply α} (hm : KindBlind m) := (hm _ _ hstart).withoutAnswers_eq
  exact ⟨fun x => heq (setDateTime_kindBlind p x), heq (getDateTime_kindBlind p), fun m => heq (setOutputWave_kindBlind p m),
    heq engineInit_kindBlind, heq engineDeInit_kindBlind⟩

end Sys2Proof.Machine
end
